-- ==== Sys2Proof/Word.lean ====
section
/-! DEFINITION. Word.lean: the bit-vector types of the block's interface (00_scope.md R9). -/

namespace Sys2Proof

/-- A register and the host data bus: 32 bits (00_scope.md R9, 10_state.md R21). -/
abbrev Word := BitVec 32

/-- A window cell and a work-buffer cell: 8 bits (00_scope.md R9). -/
abbrev Byte := BitVec 8

/-- A host byte address: 18 bits, 0x00000 to 0x3FFFF, so no address wraps (00_scope.md R9, 20_memory.md R62). -/
abbrev Addr := BitVec 18

end Sys2Proof
end

