-- ==== Sys2Proof/Config.lean ====
section
/-! DEFINITION. Config.lean: what an implementation of the block fixes (the three capacities, 00_scope.md R8) and
the free values the spec leaves open (00_scope.md R11 `draw_N`). -/

namespace Sys2Proof

/-- The three capacity parameters of 00_scope.md R8. The model takes them as arguments: State carries one `Config`,
no step changes it, and `Config.wellFormed` (WellFormed.lean) checks R8's constraints. -/
structure Config where
  /-- IN_CAP: byte cells of the input window, the largest legal IN_LEN. -/
  inCap : Nat
  /-- OUT_CAP: byte cells of the output window. -/
  outCap : Nat
  /-- WORK_CAP: digit cells of the work buffer. -/
  workCap : Nat
deriving DecidableEq, Repr

/-- The default configuration of 00_scope.md R8. -/
def Config.default : Config := { inCap := 1024, outCap := 1399, workCap := 1399 }

/-- `draw_32` (00_scope.md R11, 70_reset_and_hazards.md R232): the unspecified word the n-th such read returns. It has no
body, so nothing can be proved of its value; DESIGN CHOICE, safe (log 3). -/
opaque Config.freeWord : Nat → Word

end Sys2Proof
end

