-- ==== Sys2Proof/Machine/Bus.lean ====
section
/-! DEFINITION. Machine/Bus.lean: what passes over the host port (20_memory.md R55, R56) and what drives the model's
agents (00_scope.md R15): host transactions, responses, turns. Types only. -/

namespace Sys2Proof.Machine

/-- The response of a bus transaction (20_memory.md R55). -/
inductive Resp where
  | okay
  | error
deriving DecidableEq, Repr

/-- One statement of a host program (30_encoding.md R87, R88): a bus transaction, or the polling loop, "the only
construct with control flow". `size` is the number of bytes `n` of 00_scope.md R11; which sizes and data are transactions at
all is `HostOp.wellFormed` (WellFormed.lean). -/
inductive HostOp where
  /-- `MemRead(addr, n)` (20_memory.md R55). -/
  | read (addr : Addr) (size : Nat)
  /-- `MemWrite(addr, n, v)` (20_memory.md R56). -/
  | write (addr : Addr) (size : Nat) (data : Word)
  /-- `POLL`: read STATUS until BUSY = 0 (30_encoding.md R88). -/
  | poll
deriving DecidableEq, Repr

/-- What the block answers on its port: a read carries a data word, a write only its response. -/
inductive Response where
  | read (r : Resp) (data : Word)
  | write (r : Resp)
deriving DecidableEq, Repr

/-- Who moves at a step (00_scope.md R15): the host, the block's sequencer, or the reset event
(70_reset_and_hazards.md R220). -/
inductive Turn where
  | host
  | sequencer
  | reset
deriving DecidableEq, Repr

/-- What a host read yields before the host port answers: a response with data; an unspecified `n`-byte value
(70_reset_and_hazards.md R232); or no value, because a cell was never written (10_state.md R47). -/
inductive ReadAnswer where
  | value (r : Resp) (data : Word)
  | unspecified (n : Nat)
  | unwritten
deriving DecidableEq, Repr

/-- The four regions of the address map (20_memory.md R51). -/
inductive Region where
  | registerPage
  | inputWindow
  | outputWindow
  | unmapped
deriving DecidableEq, Repr

/-- The eleven registers of the register page (10_state.md R21). -/
inductive Reg where
  | id | capIn | capOut | capWork | cmd | status | inLen | outLen | zcount | diglen | errInfo
deriving DecidableEq, Repr

end Sys2Proof.Machine
end

