-- ==== Sys2Proof/Machine/State.lean ====
section
/-! DEFINITION. Machine/State.lean: every piece of state the spec gives the block (10_state.md R20), as plain data, the
world around it (`Env`, the model's own), the reasons a step stops, and the state after reset (10_state.md R46). -/

namespace Sys2Proof.Machine

/-- Why the model stops with a fault (00_scope.md R13). -/
inductive Fault where
  /-- Raised by a host read of a window cell that nothing has written since reset, and by an ENCODE or DECODE whose input
  cells `IN[0..n)` include one (10_state.md R47, 43_control.md R174). The hardware returns some value the spec does not
  give; stopping is safe: a run that reads an unwritten cell proves nothing. -/
  | uninitRead
deriving DecidableEq, Repr

/-- Why the model refuses to go on (00_scope.md R13). -/
inductive Refusal where
  /-- Raised by an arm of `exec` for a command that has no meaning yet; no arm does. Safe. -/
  | notModelled (mnemonic : String)
  /-- Raised by every step of a configuration that breaks 00_scope.md R8 (60_exceptions.md R209). Safe. -/
  | illegalConfig
  /-- Raised by the host's step for a statement that is no transaction of 00_scope.md R11: a size not in {1, 2, 4}, or data
  wider than the size. Safe. -/
  | malformedTransaction
deriving DecidableEq, Repr

/-- The command errors the block can raise (60_exceptions.md R190, codes 1 to 4). -/
inductive CmdError where
  | invalidCharacter
  | lenRange
  | illegalCmd
  | carryOverflow
deriving DecidableEq, Repr

/-- The sequencer's phase (10_state.md R40). -/
inductive Phase where
  | idle
  | run
deriving DecidableEq, Repr

/-- STATUS (10_state.md R28), field by field. It is read-only to the host and its reserved bits read 0, so the fields are the
whole register; `Status.word` (Flags.lean) is the word the host reads. -/
structure Status where
  busy : Bool
  done : Bool
  err : Bool
  hzd : Bool
  errcode : BitVec 4
  lastop : BitVec 4
deriving DecidableEq, Repr

/-- The hidden datapath registers and the work buffer (10_state.md R41, R42). Nothing reads them before a command sets
them; what they hold outside RUN is the model's own (log 1, 9). -/
structure Datapath where
  /-- Leading-zero counter. -/
  z : Word
  /-- Work-buffer length in use. -/
  size : Word
  /-- High-water mark. -/
  length : Word
  carry : Byte
  /-- Limb-step intermediate. -/
  t : BitVec 14
  /-- Positions touched in the current fold. -/
  i : Word
  /-- Current work-buffer position, -1 <= p < size. -/
  p : Int
  /-- `W[0..size)`, the cells the last CLEAR set; a cell at or beyond `size` holds no value and nothing reads it (log 11). -/
  work : List Byte
deriving DecidableEq, Repr

/-- A window: the cells written since reset, by rising index, each index at most once. An index that is not listed is
`none`, a cell nothing has written (10_state.md R47). -/
abbrev Memory := List Host.Cell

/-- The world around the block; the model's own, not the spec's state. -/
structure Env where
  /-- Who moves at the coming steps, the next one first (70_reset_and_hazards.md R240; log 4). -/
  turns : List Turn
  /-- The host transactions still to be performed, the next one first (log 5). -/
  program : List HostOp
  /-- The responses given so far, the newest first. -/
  responses : List Response
  /-- How many free values have been read (log 3). -/
  draws : Nat
deriving DecidableEq, Repr

/-- The block and the world around it. ID is a constant, CMD stores nothing (10_state.md R23, R27), and CAP_IN, CAP_OUT
and CAP_WORK are `cfg` (R24 to R26). -/
structure State where
  cfg : Config
  status : Status
  inLen : Word
  outLen : Word
  zcount : Word
  diglen : Word
  errInfo : Word
  phase : Phase
  /-- The latched command word (10_state.md R40). -/
  cw : Word
  dp : Datapath
  /-- `IN`, by cell index (10_state.md R43). -/
  inWin : Memory
  /-- `OUT`, by cell index (10_state.md R44). -/
  outWin : Memory
  /-- The sticky model-fault record (00_scope.md R13, 10_state.md R20 item 5; log 8). -/
  modelFault : Option Fault
  env : Env
deriving DecidableEq, Repr

/-- STATUS after reset: 0x00000000 (10_state.md R46). -/
def Status.reset : Status :=
  { busy := false, done := false, err := false, hzd := false, errcode := 0#4, lastop := 0#4 }

/-- The hidden datapath after reset. 10_state.md R46 leaves every value unspecified: DESIGN CHOICE, unsafe (log 1). -/
def Datapath.reset : Datapath :=
  { z := 0#32, size := 0#32, length := 0#32, carry := 0#8, t := 0#14, i := 0#32, p := -1, work := [] }

/-- No turn chosen, no transaction waiting, no response given, no free value read. -/
def Env.empty : Env := { turns := [], program := [], responses := [], draws := 0 }

/-- The state after reset of a block of configuration `cfg` (10_state.md R46). `cw` is unspecified there: DESIGN CHOICE 0,
unsafe (log 1). -/
def State.resetWith (cfg : Config) : State :=
  { cfg := cfg, status := Status.reset, inLen := 0#32, outLen := 0#32, zcount := 0#32, diglen := 0#32, errInfo := 0#32,
    phase := .idle, cw := 0#32, dp := Datapath.reset, inWin := [], outWin := [], modelFault := none, env := Env.empty }

/-- The machine right after reset, in the default configuration. -/
def State.reset : State := State.resetWith Config.default

/-- The three outcomes of a step of this machine. -/
abbrev Result := Host.Outcome State Fault Refusal

end Sys2Proof.Machine
end

