-- ==== Sys2Proof/Machine/Flags.lean ====
section
/-! DEFINITION. Machine/Flags.lean: every computation on STATUS: the word the host reads, and what acceptance, completion
and a discarded write do to the fields (10_state.md R28 to R34). -/

namespace Sys2Proof.Machine

/-- The code of a command error (60_exceptions.md R190). -/
def CmdError.code : CmdError → BitVec 4
  | .invalidCharacter => 1#4
  | .lenRange => 2#4
  | .illegalCmd => 3#4
  | .carryOverflow => 4#4

/-- STATUS as the host reads it (10_state.md R28): LASTOP 15:12, ERRCODE 11:8, HZD 3, ERR 2, DONE 1, BUSY 0; every other
bit reads 0. -/
def Status.word (st : Status) : Word :=
  0#16 ++ st.lastop ++ st.errcode ++ 0#4 ++ BitVec.ofBool st.hzd ++ BitVec.ofBool st.err ++ BitVec.ofBool st.done
    ++ BitVec.ofBool st.busy

/-- STATUS at acceptance of the command word `v` (43_control.md R170). -/
def Status.accepted (st : Status) (v : Word) : Status :=
  { st with busy := true, done := false, err := false, errcode := 0#4, lastop := v.extractLsb' 0 4 }

/-- STATUS at a completion without error (43_control.md R175, R177, R178). -/
def Status.completedOk (st : Status) : Status :=
  { st with busy := false, done := true, err := false, errcode := 0#4 }

/-- STATUS at a completion with error `e` (43_control.md R175, R176). -/
def Status.completedWith (st : Status) (e : CmdError) : Status :=
  { st with busy := false, done := true, err := true, errcode := e.code }

/-- STATUS after a write discarded because BUSY = 1 (70_reset_and_hazards.md R230). -/
def Status.hazard (st : Status) : Status := { st with hzd := true }

/-- STATUS with the sticky hazard flag cleared (43_control.md R179). -/
def Status.hazardCleared (st : Status) : Status := { st with hzd := false }

end Sys2Proof.Machine
end

