-- ==== Sys2Proof/Machine/Ops.lean ====
section
/-! DEFINITION. Machine/Ops.lean: the shared operations: window memory, acceptance and the two completions of a command
(43_control.md R170, R176, R177), the discarded write (70_reset_and_hazards.md R230), the port's response, reset (R220). -/

namespace Sys2Proof.Machine

/-! ### Window memory -/

/-- What a cell that nothing has written reads as: no value (10_state.md R47). -/
def Memory.unlisted : Option Byte := none

/-- The value of cell `k`, or `none` when nothing has written it since reset (10_state.md R47). -/
def Memory.get : Memory → Nat → Option Byte
  | [], _ => Memory.unlisted
  | (a, b) :: m, k => if k = a then some b else Memory.get m k

/-- Write `v` to cell `k`, keeping the cells in rising order. -/
def Memory.set : Memory → Nat → Byte → Memory
  | [], k, v => [(k, v)]
  | (a, b) :: m, k, v =>
    if k < a then (k, v) :: (a, b) :: m
    else if k = a then (k, v) :: m
    else (a, b) :: Memory.set m k v

/-- The canonical form: indices strictly rising. An entry is a written byte, so none equals `Memory.unlisted`. -/
abbrev Memory.wf (m : Memory) : Prop := List.Pairwise (fun c d : Host.Cell => c.1 < d.1) m

/-- The `n` cells from `k` on, when each of them has been written. -/
def Memory.readFrom (m : Memory) : (k n : Nat) → Option (List Byte)
  | _, 0 => some []
  | k, n + 1 =>
    match m.get k, Memory.readFrom m (k + 1) n with
    | some b, some bs => some (b :: bs)
    | _, _ => none

/-- Write the bytes to the cells from `k` on. -/
def Memory.writeFrom : Memory → Nat → List Byte → Memory
  | m, _, [] => m
  | m, k, b :: bs => Memory.writeFrom (m.set k b) (k + 1) bs

/-! ### Acceptance and completion -/

/-- `Accept(v)` (43_control.md R170): the word is latched, the phase becomes RUN, BUSY is set, DONE, ERR and ERRCODE are
cleared, LASTOP takes `v[3:0]`; nothing else changes. -/
def State.accept (v : Word) (s : State) : State :=
  { s with cw := v, phase := .run, status := s.status.accepted v }

/-- The end of every completion step (43_control.md R175) that ends without error: IDLE, BUSY = 0, DONE = 1, ERR = 0,
ERRCODE = 0, ERR_INFO = 0 (R177, R178, R179; 60_exceptions.md R191). -/
def State.completeOk (s : State) : State :=
  { s with phase := .idle, status := s.status.completedOk, errInfo := 0#32 }

/-- `CompleteOk(OUT_LEN = a, ZCOUNT = b, DIGLEN = c)` (43_control.md R177). -/
def State.completeResult (a b c : Nat) (s : State) : State :=
  { s with outLen := BitVec.ofNat 32 a, zcount := BitVec.ofNat 32 b, diglen := BitVec.ofNat 32 c }.completeOk

/-- `raise E(info)` with the completion step that carries it (43_control.md R175, R176): the block's one way to take an
error. Result registers zeroed, ERR_INFO and the error code written, no OUT cell written. The block has no trap and no return
from one (60_exceptions.md R201, R202). -/
def State.completeError (e : CmdError) (info : Word) (s : State) : State :=
  { s with phase := .idle, status := s.status.completedWith e, outLen := 0#32, zcount := 0#32, diglen := 0#32,
           errInfo := info }

/-! ### The host port, reset and the schedule -/

/-- A write discarded because BUSY = 1 (70_reset_and_hazards.md R230): HZD is set and nothing else changes. -/
def State.discardWrite (s : State) : State := { s with status := s.status.hazard }

/-- The block answers a transaction on its port. -/
def State.respond (r : Response) (s : State) : State :=
  { s with env := { s.env with responses := r :: s.env.responses } }

/-- A free value has been read: the next one is another (00_scope.md R11). -/
def State.drawn (s : State) : State := { s with env := { s.env with draws := s.env.draws + 1 } }

/-- The host program left to run. -/
def State.setProgram (ops : List HostOp) (s : State) : State := { s with env := { s.env with program := ops } }

/-- The turns left to take. -/
def State.setTurns (ts : List Turn) (s : State) : State := { s with env := { s.env with turns := ts } }

/-- Reset (70_reset_and_hazards.md R220, R221): every state element of the block at its value of 10_state.md R46, a running
command abandoned. The configuration is fixed, the host and its schedule are outside the block, and the fault record is
sticky (00_scope.md R13). -/
def State.resetBlock (s : State) : State :=
  { State.resetWith s.cfg with env := s.env, modelFault := s.modelFault }

/-- Record a model fault (00_scope.md R13, 43_control.md R174): sticky, so the first one stays. -/
def State.recordFault (f : Fault) (s : State) : State := { s with modelFault := s.modelFault.or (some f) }

/-- A command word placed for the very next step: accepted as a CMD write accepts it (43_control.md R170), and the
sequencer's turn is next (log 6). -/
def State.placeCommand (v : Word) (s : State) : State := (s.accept v).setTurns (.sequencer :: s.env.turns)

end Sys2Proof.Machine
end

