-- ==== Sys2Proof/Syntax.lean ====
section
/-! DEFINITION. Syntax.lean: the commands of the block, one constructor per row of the opcode table (30_encoding.md R82). -/

namespace Sys2Proof

/-- The command set B58CONV version 1. No command carries an operand (30_encoding.md R81): lengths and symbols come
from IN_LEN and the input window. -/
inductive Instr where
  /-- OP 0x0 (43_control.md R178). -/
  | nop
  /-- OP 0x1: bytes to Base58 codes (41_encode.md R130). -/
  | encode
  /-- OP 0x2: Base58 codes to bytes (42_decode.md R150). -/
  | decode
  /-- OP 0x3: clear the hazard flag (43_control.md R179). -/
  | clrhzd
deriving DecidableEq, Repr

end Sys2Proof
end

