-- ==== Sys2Proof/Decode.lean ====
section
/-! DEFINITION. Decode.lean: `DecodeCmd`, total on every 32-bit word (30_encoding.md R83), and after it the encoder. -/

namespace Sys2Proof

/-- Why a word is ILLEGAL (30_encoding.md R83, R84): a reserved bit of RSV is set, or OP is reserved. Both complete with
ILLEGAL_CMD; the name only says which check failed. -/
inductive DecodeReject where
  /-- `cw[31:4] != 0`. -/
  | reservedBits
  /-- `cw[3:0]` in 0x4 to 0xF. -/
  | reservedOpcode
deriving DecidableEq, Repr

/-- OP, bits 3:0 (30_encoding.md R80). -/
def opField (cw : Word) : BitVec 4 := cw.extractLsb' 0 4

/-- RSV, bits 31:4 (30_encoding.md R80). -/
def rsvField (cw : Word) : BitVec 28 := cw.extractLsb' 4 28

/-- `DecodeCmd` (30_encoding.md R83). -/
def decodeCmd (cw : Word) : Except DecodeReject Instr :=
  if rsvField cw ≠ 0#28 then .error .reservedBits
  else if opField cw = 0x0#4 then .ok .nop
  else if opField cw = 0x1#4 then .ok .encode
  else if opField cw = 0x2#4 then .ok .decode
  else if opField cw = 0x3#4 then .ok .clrhzd
  else .error .reservedOpcode

/-- The command from an opcode-table row: `w` holds the row's bits, bit 0 the least significant. A command word is one bus
word (30_encoding.md R86), so there is no byte order between words to undo; a number that does not fit the 32 bits is none. -/
def decodeTableWord (nbits w : Nat) : Option Instr :=
  if nbits ≤ 32 ∧ w < 2 ^ nbits then
    match decodeCmd (BitVec.ofNat 32 w) with
    | .ok i => some i
    | .error _ => none
  else none

/-- OP of a command (30_encoding.md R82). -/
def opcode : Instr → BitVec 4
  | .nop => 0x0#4
  | .encode => 0x1#4
  | .decode => 0x2#4
  | .clrhzd => 0x3#4

/-- The command word of a command: RSV = 0 above OP (30_encoding.md R80, R82). -/
def encode (i : Instr) : Word := 0#28 ++ opcode i

end Sys2Proof
end

