-- ==== Sys2Proof/Machine/Control.lean ====
section
/-! DEFINITION. Machine/Control.lean: NOP, CLRHZD and the completion of an illegal word (43_control.md R178 to R180). -/

namespace Sys2Proof.Machine

/-- NOP (43_control.md R178): results, HZD, IN_LEN and both windows unchanged. -/
def execNop (s : State) : Result := .next s.completeOk

/-- CLRHZD (43_control.md R179): as NOP, and HZD cleared; the completion's clear wins over a write discarded before it. -/
def execClrhzd (s : State) : Result := .next { s with status := s.status.hazardCleared }.completeOk

/-- An illegal word (43_control.md R180): ILLEGAL_CMD with ERR_INFO = the whole word. -/
def completeIllegal (s : State) : Result := .next (s.completeError .illegalCmd s.cw)

end Sys2Proof.Machine
end

