-- ==== Sys2Proof/Machine/Sizes.lean ====
section
/-! DEFINITION. Machine/Sizes.lean: the exact work-buffer sizes ENC_SIZE and DEC_SIZE (40_limb_reduction.md R106; the
formula of D00 in its exact integer form, 90_conflicts.md C2). -/

namespace Sys2Proof.Machine

/-- Search for the least `k` with `target ≤ base ^ k`, from exponent `k` whose power is `power`, for at most `fuel` more
exponents. -/
def leastExp (base target : Nat) : (fuel k power : Nat) → Nat
  | 0, k, _ => k
  | fuel + 1, k, power => if target ≤ power then k else leastExp base target fuel (k + 1) (power * base)

/-- ENC_SIZE(m): the least `k` with `58^k >= 256^m` (40_limb_reduction.md R106). `58^(2m) >= 256^m`, so the search ends. -/
def encSize (m : Nat) : Nat := leastExp 58 (256 ^ m) (2 * m) 0 1

/-- DEC_SIZE(m): the least `k` with `256^k >= 58^m` (40_limb_reduction.md R106). `256^m >= 58^m`, so the search ends. -/
def decSize (m : Nat) : Nat := leastExp 256 (58 ^ m) m 0 1

end Sys2Proof.Machine
end

