-- ==== Sys2Proof/Machine/Operands.lean ====
section
/-! DEFINITION. Machine/Operands.lean: where operands come from: the address map and the register page (20_memory.md R51,
10_state.md R21), the byte lanes (20_memory.md R60), the alphabet (40_limb_reduction.md R100, R101) and the two directions of
conversion (R102). -/

namespace Sys2Proof.Machine

/-- The region an address lies in (20_memory.md R51). -/
def regionOf (a : Addr) : Region :=
  if a.toNat < 0x01000 then .registerPage
  else if 0x10000 ≤ a.toNat ∧ a.toNat < 0x20000 then .inputWindow
  else if 0x20000 ≤ a.toNat ∧ a.toNat < 0x30000 then .outputWindow
  else .unmapped

/-- The offset of a register in the register page (10_state.md R21). -/
def Reg.offset : Reg → Nat
  | .id => 0x000
  | .capIn => 0x004
  | .capOut => 0x008
  | .capWork => 0x00C
  | .cmd => 0x010
  | .status => 0x014
  | .inLen => 0x018
  | .outLen => 0x01C
  | .zcount => 0x020
  | .diglen => 0x024
  | .errInfo => 0x028

/-- The register page's registers in the order of 10_state.md R21. -/
def Reg.all : List Reg :=
  [.id, .capIn, .capOut, .capWork, .cmd, .status, .inLen, .outLen, .zcount, .diglen, .errInfo]

/-- The register at a word-aligned offset; none at a reserved one, which is RAZ/WI (20_memory.md R52). -/
def Reg.atOffset (off : Nat) : Option Reg := Reg.all.find? fun r => r.offset == off

/-- The value of ID: block tag 0x0B58, version 1 (10_state.md R23). -/
def idWord : Word := 0x0B580001#32

/-- A 32-bit access is word aligned; an 8-bit access is aligned at any address (20_memory.md R58, R59). -/
def aligned (a : Addr) (n : Nat) : Bool := n != 4 || a.toNat % 4 == 0

/-- Bytes in lane order to a word: the first byte in bits 7:0, the second in bits 15:8 (20_memory.md R60). -/
def lanesToNat : List Byte → Nat
  | [] => 0
  | b :: bs => b.toNat + 256 * lanesToNat bs

/-- The first `n` byte lanes of a word, lane 0 (bits 7:0) first (20_memory.md R60). -/
def lanesOf (v : Word) (n : Nat) : List Byte := (List.range n).map fun k => v.extractLsb' (8 * k) 8

/-- The alphabet's 58 codes in index order (40_limb_reduction.md R100). The characters are D00's; their codes are ASCII,
which R100 marks as general knowledge: PRESUMED (log 17). -/
def alphabet : List Byte :=
  [0x31#8, 0x32#8, 0x33#8, 0x34#8, 0x35#8, 0x36#8, 0x37#8, 0x38#8, 0x39#8]             -- '1' to '9'
    ++ [0x41#8, 0x42#8, 0x43#8, 0x44#8, 0x45#8, 0x46#8, 0x47#8, 0x48#8]                 -- 'A' to 'H'
    ++ [0x4A#8, 0x4B#8, 0x4C#8, 0x4D#8, 0x4E#8]                                         -- 'J' to 'N'
    ++ [0x50#8, 0x51#8, 0x52#8, 0x53#8, 0x54#8, 0x55#8, 0x56#8, 0x57#8, 0x58#8, 0x59#8, 0x5A#8] -- 'P' to 'Z'
    ++ [0x61#8, 0x62#8, 0x63#8, 0x64#8, 0x65#8, 0x66#8, 0x67#8, 0x68#8, 0x69#8, 0x6A#8, 0x6B#8] -- 'a' to 'k'
    ++ [0x6D#8, 0x6E#8, 0x6F#8, 0x70#8, 0x71#8, 0x72#8, 0x73#8, 0x74#8, 0x75#8, 0x76#8, 0x77#8, 0x78#8, 0x79#8, 0x7A#8]

/-- `ALPH(d)` for `0 <= d <= 57` (40_limb_reduction.md R100). No digit above 57 arises (R42); there the total function
answers the zero symbol, which nothing reaches (log 18). -/
def alph (d : Nat) : Byte := alphabet.getD d 0x31#8

/-- `IDX(c)`, none for INVALID (40_limb_reduction.md R101). -/
def idx (c : Byte) : Option Nat :=
  if 0x31 ≤ c.toNat ∧ c.toNat ≤ 0x39 then some (c.toNat - 0x31)
  else if 0x41 ≤ c.toNat ∧ c.toNat ≤ 0x48 then some (c.toNat - 0x41 + 9)
  else if 0x4A ≤ c.toNat ∧ c.toNat ≤ 0x4E then some (c.toNat - 0x4A + 17)
  else if 0x50 ≤ c.toNat ∧ c.toNat ≤ 0x5A then some (c.toNat - 0x50 + 22)
  else if 0x61 ≤ c.toNat ∧ c.toNat ≤ 0x6B then some (c.toNat - 0x61 + 33)
  else if 0x6D ≤ c.toNat ∧ c.toNat ≤ 0x7A then some (c.toNat - 0x6D + 44)
  else none

/-- The two directions of conversion (40_limb_reduction.md R102). -/
inductive Direction where
  /-- ENCODE: radix 256 to radix 58. -/
  | toBase58
  /-- DECODE: radix 58 to radix 256. -/
  | toBytes
deriving DecidableEq, Repr

/-- R_in, the radix of the input symbols (40_limb_reduction.md R102). -/
def Direction.rIn : Direction → Nat
  | .toBase58 => 256
  | .toBytes => 58

/-- R_out, the radix of the work-buffer limbs (40_limb_reduction.md R102). -/
def Direction.rOut : Direction → Nat
  | .toBase58 => 58
  | .toBytes => 256

/-- The zero symbol of the input (40_limb_reduction.md R102). -/
def Direction.zeroIn : Direction → Byte
  | .toBase58 => 0x00#8
  | .toBytes => 0x31#8

/-- The zero symbol of the output (40_limb_reduction.md R102). -/
def Direction.zeroOut : Direction → Byte
  | .toBase58 => 0x31#8
  | .toBytes => 0x00#8

/-- The digit an input symbol stands for: every byte is one (41_encode.md R130), a code is one when it is in the alphabet
(42_decode.md R153). -/
def Direction.digit : Direction → Byte → Option Nat
  | .toBase58, b => some b.toNat
  | .toBytes, c => idx c

/-- The output symbol of a limb (41_encode.md R135, 42_decode.md R156). -/
def Direction.symbol : Direction → Nat → Byte
  | .toBase58, d => alph d
  | .toBytes, d => BitVec.ofNat 8 d

/-- The work-buffer size for `m` symbols to fold (40_limb_reduction.md R107). -/
def Direction.workSize : Direction → Nat → Nat
  | .toBase58, m => encSize m
  | .toBytes, m => decSize m

end Sys2Proof.Machine
end

