-- ==== Sys2Proof/Machine/Convert.lean ====
section
/-! DEFINITION. Machine/Convert.lean: the datapath ENCODE and DECODE share (40_limb_reduction.md): limb step, fold, clear,
leading-zero count, skip, and the whole conversion of R130 and R150. The arithmetic is exact on naturals, as the pseudocode's
is (00_scope.md R10), and narrows when a register or a cell takes the value (log 12). -/

namespace Sys2Proof.Machine

/-- The limb step's intermediate `t = R_in * d + c` (40_limb_reduction.md R103). -/
def limbIntermediate (rIn d c : Nat) : Nat := rIn * d + c

/-- `LimbStep` (40_limb_reduction.md R103): the new limb and the outgoing carry. -/
def limbStep (rIn rOut d c : Nat) : Nat × Nat :=
  (limbIntermediate rIn d c % rOut, limbIntermediate rIn d c / rOut)

/-- The values a run of folds works on: the digits `W[0..size)` and the datapath's `length`, `carry`, `t`, `i`, `p`
(10_state.md R41, R42), before they narrow to their registers. -/
structure Chain where
  work : List Nat
  length : Nat
  carry : Nat
  t : Nat
  i : Nat
  p : Int
deriving DecidableEq, Repr

/-- CLEAR (40_limb_reduction.md R105): `W[0..size) := 0`, `length := 0`. The other registers hold no value of the spec's until
the first fold sets them; they start at the empty fold's values (log 10). -/
def Chain.cleared (size : Nat) : Chain :=
  { work := List.replicate size 0, length := 0, carry := 0, t := 0, i := 0, p := (size : Int) - 1 }

/-- The while loop of `Fold` (40_limb_reduction.md R104). The argument is `p + 1`, the number of positions from 0 to `p`: the loop
stops at 0, the left end, or when the carry is exhausted and every position used before is covered. A position below `p + 1`
lies in the buffer, so the default digit of `getD` is never taken (log 18). -/
def foldLoop (rIn rOut : Nat) : Nat → Chain → Chain
  | 0, c => c
  | p + 1, c =>
    if c.carry ≠ 0 ∨ c.i < c.length then
      foldLoop rIn rOut p
        { c with
          work := c.work.set p (limbStep rIn rOut (c.work.getD p 0) c.carry).1
          carry := (limbStep rIn rOut (c.work.getD p 0) c.carry).2
          t := limbIntermediate rIn (c.work.getD p 0) c.carry
          i := c.i + 1
          p := (p : Int) - 1 }
    else c

/-- `Fold` up to its carry check (40_limb_reduction.md R104): `carry := v; i := 0; p := size - 1`, then the loop. -/
def pushDigit (rIn rOut v : Nat) (c : Chain) : Chain :=
  foldLoop rIn rOut c.work.length { c with carry := v, i := 0, p := (c.work.length : Int) - 1 }

/-- How the folds of a command end: all done, or at the input index of the symbol that raised an error. -/
inductive FoldEnd where
  | done
  /-- The symbol at this index is no digit (42_decode.md R153). -/
  | invalidCharacter (j : Nat)
  /-- The fold of the symbol at this index left a carry (40_limb_reduction.md R104); never taken (R108). -/
  | carryOverflow (j : Nat)
deriving DecidableEq, Repr

/-- The folds of the symbols from input index `j` on, in order, with the character check before each and the carry check and
`length := i` after it (41_encode.md R133; 42_decode.md R153, R154; 40_limb_reduction.md R104). -/
def foldSymbols (d : Direction) : Nat → List Byte → Chain → FoldEnd × Chain
  | _, [], c => (.done, c)
  | j, b :: bs, c =>
    match d.digit b with
    | none => (.invalidCharacter j, c)
    | some v =>
      if (pushDigit d.rIn d.rOut v c).carry ≠ 0 then (.carryOverflow j, pushDigit d.rIn d.rOut v c)
      else
        foldSymbols d (j + 1) bs
          { pushDigit d.rIn d.rOut v c with length := (pushDigit d.rIn d.rOut v c).i }

/-- `LeadZ(IN, n, zsym)` of the input symbols (40_limb_reduction.md R111). -/
def leadZ (zsym : Byte) : List Byte → Nat
  | [] => 0
  | b :: bs => if b = zsym then leadZ zsym bs + 1 else 0

/-- `Skip` (40_limb_reduction.md R112): the first index with a non-zero digit, or the size. -/
def skip : List Nat → Nat
  | [] => 0
  | w :: ws => if w = 0 then skip ws + 1 else 0

/-- The datapath registers as they take the values of a run of folds (10_state.md R41, R42). -/
def Chain.latch (z size : Nat) (c : Chain) : Datapath :=
  { z := BitVec.ofNat 32 z, size := BitVec.ofNat 32 size, length := BitVec.ofNat 32 c.length,
    carry := BitVec.ofNat 8 c.carry, t := BitVec.ofNat 14 c.t, i := BitVec.ofNat 32 c.i, p := c.p,
    work := c.work.map (BitVec.ofNat 8) }

/-- The hidden datapath takes its values. -/
def State.setDatapath (d : Datapath) (s : State) : State := { s with dp := d }

/-- The output symbols of EMIT (41_encode.md R135, 42_decode.md R156): `z` zero symbols, then each digit of `W[s..size)`. -/
def emitted (d : Direction) (z : Nat) (c : Chain) : List Byte :=
  List.replicate z d.zeroOut ++ (c.work.drop (skip c.work)).map d.symbol

/-- EMIT: `OUT[k]` for `k` below the number of output symbols; the cells beyond keep their values (10_state.md R44). -/
def State.emit (d : Direction) (z : Nat) (c : Chain) (s : State) : State :=
  { s with outWin := s.outWin.writeFrom 0 (emitted d z c) }

/-- The end of a conversion whose folds ended so: EMIT and `CompleteOk`, or the error with the symbol's index
(41_encode.md R130, 42_decode.md R150). -/
def State.finish (d : Direction) (z : Nat) (e : FoldEnd × Chain) (s : State) : State :=
  match e with
  | (.done, c) => (s.emit d z c).completeResult (z + c.work.length - skip c.work) z c.length
  | (.invalidCharacter j, _) => s.completeError .invalidCharacter (BitVec.ofNat 32 j)
  | (.carryOverflow j, _) => s.completeError .carryOverflow (BitVec.ofNat 32 j)

/-- The folds of a command on the input symbols `u`: the leading zeros are bypassed, the work buffer is cleared at its exact
size, and every symbol from index `z` on is folded (41_encode.md R131 to R133; 42_decode.md R151 to R154). -/
def foldInput (d : Direction) (u : List Byte) : FoldEnd × Chain :=
  foldSymbols d (leadZ d.zeroIn u) (u.drop (leadZ d.zeroIn u))
    (Chain.cleared (d.workSize (u.length - leadZ d.zeroIn u)))

/-- A conversion of the input symbols `u`, its hidden registers latched (41_encode.md R130, 42_decode.md R150 after the checks). -/
def State.convertInput (d : Direction) (u : List Byte) (s : State) : State :=
  (s.setDatapath
      ((foldInput d u).2.latch (leadZ d.zeroIn u) (d.workSize (u.length - leadZ d.zeroIn u)))).finish
    d (leadZ d.zeroIn u) (foldInput d u)

/-- `Encode()` and `Decode()` whole (41_encode.md R130, 42_decode.md R150; order of checks 43_control.md R173): LEN_RANGE before any
cell is read; then every input cell must have been written, or the model faults (10_state.md R47); then the conversion. -/
def convert (d : Direction) (s : State) : Result :=
  if s.cfg.inCap < s.inLen.toNat then .next (s.completeError .lenRange s.inLen)
  else
    match s.inWin.readFrom 0 s.inLen.toNat with
    | none => .fault .uninitRead
    | some u => .next (s.convertInput d u)

end Sys2Proof.Machine
end

