-- ==== Sys2Proof/Machine/Radix.lean ====
section
/-! DEFINITION. Machine/Radix.lean: the two conversion commands, ENCODE (41_encode.md) and DECODE (42_decode.md). -/

namespace Sys2Proof.Machine

/-- ENCODE (41_encode.md R130), run whole by the completion step (43_control.md R175). -/
def execEncode (s : State) : Result := convert .toBase58 s

/-- DECODE (42_decode.md R150), run whole by the completion step (43_control.md R175). -/
def execDecode (s : State) : Result := convert .toBytes s

end Sys2Proof.Machine
end

