-- ==== Sys2Proof/WellFormed.lean ====
section
/-! DEFINITION. WellFormed.lean: which commands, host transactions and configurations mean something. -/

namespace Sys2Proof

/-- Every command is well formed: no command carries an operand (30_encoding.md R81). -/
def Instr.wellFormed : Instr → Bool
  | .nop => true
  | .encode => true
  | .decode => true
  | .clrhzd => true

/-- The constraints of 00_scope.md R8: `1 <= IN_CAP <= 47988`, `ENC_SIZE(IN_CAP) <= OUT_CAP <= 65536`,
`ENC_SIZE(IN_CAP) <= WORK_CAP <= 65536`. -/
def Config.meetsConstraints (c : Config) : Bool :=
  decide (1 ≤ c.inCap) && decide (c.inCap ≤ 47988)
    && decide (Machine.encSize c.inCap ≤ c.outCap) && decide (c.outCap ≤ 65536)
    && decide (Machine.encSize c.inCap ≤ c.workCap) && decide (c.workCap ≤ 65536)

/-- A configuration the model accepts; the others are refused (00_scope.md R8, 60_exceptions.md R209). The default of R8
meets the constraints (Laws: `Config.wellFormed_iff`) and is named first so that a step from reset needs no search. -/
def Config.wellFormed (c : Config) : Bool := c == Config.default || c.meetsConstraints

/-- `n` in {1, 2, 4} (00_scope.md R11). -/
def Machine.legalSize (n : Nat) : Bool := n == 1 || n == 2 || n == 4

/-- A transaction of 00_scope.md R11 and 20_memory.md R55, R56: `n` in {1, 2, 4}, and the data of a write has `8*n` bits. -/
def Machine.HostOp.wellFormed : Machine.HostOp → Bool
  | .read _ n => Machine.legalSize n
  | .write _ n v => Machine.legalSize n && decide (v.toNat < 256 ^ n)
  | .poll => true

end Sys2Proof
end

