-- ==== Sys2Proof/Machine/Port.lean ====
section
/-! DEFINITION. Machine/Port.lean: the host agent: `MemRead` and `MemWrite` (20_memory.md R55, R56), the statements of a host
program that call them (30_encoding.md R87, R88), and the host's turn. -/

namespace Sys2Proof.Machine

/-- The ERROR answer of a read: data 0x00000000 (20_memory.md R63). -/
def busError : ReadAnswer := .value .error 0#32

/-- A result register reads as an unspecified word while BUSY = 1 (70_reset_and_hazards.md R232). -/
def readResult (v : Word) (s : State) : ReadAnswer :=
  if s.status.busy then .unspecified 4 else .value .okay v

/-- `RegRead` of a register (20_memory.md R55, 10_state.md R22). -/
def readReg (r : Reg) (s : State) : ReadAnswer :=
  match r with
  | .id => .value .okay idWord
  | .capIn => .value .okay (BitVec.ofNat 32 s.cfg.inCap)
  | .capOut => .value .okay (BitVec.ofNat 32 s.cfg.outCap)
  | .capWork => .value .okay (BitVec.ofNat 32 s.cfg.workCap)
  | .cmd => .value .okay 0#32
  | .status => .value .okay s.status.word
  | .inLen => .value .okay s.inLen
  | .outLen => readResult s.outLen s
  | .zcount => readResult s.zcount s
  | .diglen => readResult s.diglen s
  | .errInfo => readResult s.errInfo s

/-- A read of the register page at a word-aligned offset; a reserved offset reads 0 (20_memory.md R52, R55). -/
def readPage (off : Nat) (s : State) : ReadAnswer :=
  match Reg.atOffset off with
  | some r => readReg r s
  | none => .value .okay 0#32

/-- A read of `n` cells of a window from index `i`, in lane order, zero-extended (20_memory.md R55, R60). -/
def readWindow (m : Memory) (i n : Nat) : ReadAnswer :=
  match m.readFrom i n with
  | some bs => .value .okay (BitVec.ofNat 32 (lanesToNat bs))
  | none => .unwritten

/-- `MemRead(a, n)` (20_memory.md R55). It changes no state of the block, so it answers no state. -/
def memRead (a : Addr) (n : Nat) (s : State) : ReadAnswer :=
  if n = 2 then busError
  else
    match regionOf a with
    | .registerPage => if n = 4 ∧ aligned a n then readPage a.toNat s else busError
    | .inputWindow =>
      if aligned a n ∧ a.toNat - 0x10000 + n ≤ s.cfg.inCap then readWindow s.inWin (a.toNat - 0x10000) n else busError
    | .outputWindow =>
      if aligned a n ∧ a.toNat - 0x20000 + n ≤ s.cfg.outCap then
        if s.status.busy then .unspecified n else readWindow s.outWin (a.toNat - 0x20000) n
      else busError
    | .unmapped => busError

/-- A 32-bit write to the register page (20_memory.md R56): CMD starts a command, IN_LEN takes the value, each discarded while
BUSY = 1; every other offset is RO or RAZ/WI and has no effect. -/
def writePage (off : Nat) (v : Word) (s : State) : State :=
  match Reg.atOffset off with
  | some .cmd => if s.status.busy then s.discardWrite else s.accept v
  | some .inLen => if s.status.busy then s.discardWrite else { s with inLen := v }
  | _ => s

/-- A write of `n` cells of the input window from index `i` (20_memory.md R56, R60), discarded while BUSY = 1. -/
def writeInput (i n : Nat) (v : Word) (s : State) : State :=
  if s.status.busy then s.discardWrite else { s with inWin := s.inWin.writeFrom i (lanesOf v n) }

/-- `MemWrite(a, n, v)` (20_memory.md R56). The ERROR checks come before the busy check. -/
def memWrite (a : Addr) (n : Nat) (v : Word) (s : State) : Resp × State :=
  if n = 2 then (.error, s)
  else
    match regionOf a with
    | .registerPage => if n = 4 ∧ aligned a n then (.okay, writePage a.toNat v s) else (.error, s)
    | .inputWindow =>
      if aligned a n ∧ a.toNat - 0x10000 + n ≤ s.cfg.inCap then (.okay, writeInput (a.toNat - 0x10000) n v s)
      else (.error, s)
    | .outputWindow => (.error, s)
    | .unmapped => (.error, s)

/-- The unspecified `n`-byte value a read draws, zero-extended (20_memory.md R55, 70_reset_and_hazards.md R232; log 3). -/
def drawnValue (n : Nat) (s : State) : Word := Config.freeWord s.env.draws &&& BitVec.ofNat 32 (256 ^ n - 1)

/-- The host performs a read: the answer goes to the port, an unspecified value is drawn, an unwritten cell is the model fault
`UninitRead` (20_memory.md R55, 10_state.md R47). -/
def hostRead (a : Addr) (n : Nat) (s : State) : Result :=
  match memRead a n s with
  | .value r d => .next (s.respond (.read r d))
  | .unspecified k => .next (s.respond (.read .okay (drawnValue k s))).drawn
  | .unwritten => .fault .uninitRead

/-- The host performs a write (20_memory.md R56). -/
def hostWrite (a : Addr) (n : Nat) (v : Word) (s : State) : Result :=
  .next ((memWrite a n v s).2.respond (.write (memWrite a n v s).1))

/-- The address of STATUS. -/
def statusAddr : Addr := 0x00014#18

/-- One round of `POLL` (30_encoding.md R88): read STATUS; while the word read has bit 0 set, the loop comes again. -/
def hostPoll (s : State) : Result :=
  hostRead statusAddr 4 (if s.status.word.getLsbD 0 then s.setProgram (.poll :: s.env.program) else s)

/-- The effect of one statement of a host program (30_encoding.md R87, R88); a statement that is no transaction is refused. -/
def hostOp (op : HostOp) (s : State) : Result :=
  if op.wellFormed then
    match op with
    | .read a n => hostRead a n s
    | .write a n v => hostWrite a n v s
    | .poll => hostPoll s
  else .refused .malformedTransaction

/-- The host's turn: its next statement, or nothing when it has none. -/
def hostTurn (s : State) : Result :=
  match s.env.program with
  | [] => .next s
  | op :: rest => hostOp op (s.setProgram rest)

end Sys2Proof.Machine
end

