-- ==== Sys2Proof/Machine/Sequencer.lean ====
section
/-! DEFINITION. Machine/Sequencer.lean: the completion step (43_control.md R172, R175) and the choice of who moves
(00_scope.md R15, 70_reset_and_hazards.md R240). -/

namespace Sys2Proof.Machine

/-- The completion step: `Execute(cw)` (43_control.md R172, R175). -/
def complete (s : State) : Result :=
  match decodeCmd s.cw with
  | .ok i => exec i s
  | .error _ => completeIllegal s

/-- The sequencer's turn: enabled exactly when BUSY = 1 (43_control.md R175); otherwise it has no step to take. -/
def sequencerTurn (s : State) : Result := if s.status.busy then complete s else .next s

/-- One turn. When no turn is chosen ahead, a running command completes, which is the fairness of 70_reset_and_hazards.md
R240 for a finite schedule, and an idle block leaves the move to the host (log 4). -/
def takeTurn (s : State) : Result :=
  match s.env.turns with
  | .host :: ts => hostTurn (s.setTurns ts)
  | .sequencer :: ts => sequencerTurn (s.setTurns ts)
  | .reset :: ts => .next (s.setTurns ts).resetBlock
  | [] => if s.status.busy then complete s else hostTurn s

/-- One step: a recorded model fault stays (00_scope.md R13), a configuration that breaks 00_scope.md R8 is refused, and
otherwise one agent takes its turn. -/
def stepOnce (s : State) : Result :=
  match s.modelFault with
  | some f => .fault f
  | none => if s.cfg.wellFormed then takeTurn s else .refused .illegalConfig

end Sys2Proof.Machine
end

