-- ==== Sys2Proof/Machine/Step.lean ====
section
/-! DEFINITION. Machine/Step.lean: the machine's one step and the placing of a command word for it. -/

namespace Sys2Proof.Machine

/-- One step of the machine (Machine/Sequencer.lean `stepOnce`). -/
def step (s : State) : Host.Outcome State Fault Refusal := stepOnce s

/-- The command word `w` placed where the very next step runs it: latched as an accepted CMD write latches it, the sequencer's
turn next (log 6). -/
def State.withFetchWord (s : State) (_nbits w : Nat) : State := s.placeCommand (BitVec.ofNat 32 w)

end Sys2Proof.Machine
end

