-- ==== Sys2Proof/Machine/Invariant.lean ====
section
/-! DEFINITION. Machine/Invariant.lean: what every step keeps, and when two states look alike from outside the block. -/

namespace Sys2Proof.Machine

/-- Who takes the step (00_scope.md R15): the turn chosen ahead, or, when none is, the sequencer of a busy block and the host of
an idle one (log 4). -/
def State.mover (s : State) : Turn :=
  match s.env.turns with
  | turn :: _ => turn
  | [] => if s.status.busy then .sequencer else .host

/-- The sequencer completes the running command at this step (43_control.md R175). -/
def State.completes (s : State) : Prop := s.mover = .sequencer ∧ s.status.busy = true

/-- The invariant of the machine: what the spec says of the state in every run. -/
structure State.Inv (s : State) : Prop where
  /-- The input window is in its canonical form and holds cells `IN[0..IN_CAP)` only (10_state.md R43). -/
  inWf : s.inWin.wf
  inBound : ∀ c ∈ s.inWin, c.1 < s.cfg.inCap
  /-- The output window likewise (10_state.md R44). -/
  outWf : s.outWin.wf
  outBound : ∀ c ∈ s.outWin, c.1 < s.cfg.outCap
  /-- IDLE exactly when BUSY = 0 (10_state.md R40). -/
  phaseBusy : s.phase = .run ↔ s.status.busy = true
  /-- The legal combinations of STATUS fields (10_state.md R28). -/
  busyDone : ¬ (s.status.busy = true ∧ s.status.done = true)
  errDone : s.status.err = true → s.status.done = true
  errcodeErr : s.status.errcode ≠ 0#4 ↔ s.status.err = true
  /-- CARRY_OVERFLOW and the codes above it are never written (60_exceptions.md R190, R195, R196). -/
  errcodeRaised : s.status.errcode.toNat ≤ 3
  /-- ERR_INFO is 0 after a command that completed without error (10_state.md R39). -/
  errInfoZero : s.status.done = true → s.status.err = false → s.errInfo = 0#32
  /-- No result stands after an error (10_state.md R36 to R38). -/
  errNoResult : s.status.err = true → s.outLen = 0#32
  /-- DIGLEN = OUT_LEN - ZCOUNT (10_state.md R38). -/
  lengths : s.outLen.toNat = s.zcount.toNat + s.diglen.toNat
  /-- A result fits the output window and each of its cells has been written (41_encode.md R137, 42_decode.md R158). -/
  outLenCap : s.outLen.toNat ≤ s.cfg.outCap
  outWritten : ∀ k, k < s.outLen.toNat → (s.outWin.get k).isSome
  /-- The ranges of the hidden registers (10_state.md R41, R42). -/
  zCap : s.dp.z.toNat ≤ s.cfg.inCap
  sizeCap : s.dp.size.toNat ≤ s.cfg.workCap
  lengthSize : s.dp.length.toNat ≤ s.dp.size.toNat
  positionLow : -1 ≤ s.dp.p
  positionHigh : s.dp.p < (s.dp.size.toNat : Int)
  workSize : s.dp.work.length = s.dp.size.toNat

/-- Two states that differ at most in hidden state no access can observe (10_state.md R46 to R48): the datapath registers, the
work buffer, and the latched word of an idle block. -/
def VisibleEq (s s' : State) : Prop :=
  s.cfg = s'.cfg ∧ s.status = s'.status ∧ s.inLen = s'.inLen ∧ s.outLen = s'.outLen ∧ s.zcount = s'.zcount ∧
  s.diglen = s'.diglen ∧ s.errInfo = s'.errInfo ∧ s.phase = s'.phase ∧ (s.status.busy = true → s.cw = s'.cw) ∧
  s.inWin = s'.inWin ∧ s.outWin = s'.outWin ∧ s.modelFault = s'.modelFault ∧ s.env = s'.env

/-- Two outcomes of a step that no access can tell apart. -/
def SameOutcome : Result → Result → Prop
  | .next t, .next t' => VisibleEq t t'
  | .fault f, .fault f' => f = f'
  | .refused r, .refused r' => r = r'
  | _, _ => False

end Sys2Proof.Machine
end

