-- ==== Sys2Proof/Machine/Reference.lean ====
section
/-! DEFINITION. Machine/Reference.lean: the spec's reference forms, in which statements say what a conversion leaves
(00_scope.md R12, 40_limb_reduction.md R114, 41_encode.md R139, 42_decode.md R159). `exec` does not use them: the loop of
40_limb_reduction.md R104 is the normative definition. -/

namespace Sys2Proof.Machine

/-- `value_R(d)` of a digit sequence, most significant digit first (00_scope.md R12). -/
def valueR (r : Nat) (ds : List Nat) : Nat := ds.foldl (fun acc x => acc * r + x) 0

/-- `digits_R(N)`: the digits of `N` in radix `r`, most significant first, none for 0 (00_scope.md R12). `Nat.digits` lists them
least significant first. -/
def digitsR (r n : Nat) : List Nat := (Nat.digits r n).reverse

/-- `Convert(R_in, R_out, u) = digits_R_out(value_R_in(u))` (40_limb_reduction.md R114). -/
def convertDigits (rIn rOut : Nat) (u : List Nat) : List Nat := digitsR rOut (valueR rIn u)

/-- The digits of the input symbols from index `z` on, those that are digits (all of them in a successful command). -/
def significantDigits (d : Direction) (u : List Byte) : List Nat :=
  (u.drop (leadZ d.zeroIn u)).filterMap d.digit

/-- The significant output digits, most significant first (40_limb_reduction.md R114). -/
def referenceDigits (d : Direction) (u : List Byte) : List Nat :=
  convertDigits d.rIn d.rOut (significantDigits d u)

/-- The output symbols of a successful command on the input symbols `u` (41_encode.md R139, 42_decode.md R159). -/
def referenceOutput (d : Direction) (u : List Byte) : List Byte :=
  List.replicate (leadZ d.zeroIn u) d.zeroOut ++ (referenceDigits d u).map d.symbol

/-- The input symbols `IN[0..n)`, `n` = IN_LEN, when each of them has been written. -/
def State.input (s : State) : Option (List Byte) := s.inWin.readFrom 0 s.inLen.toNat

/-- The output symbols `OUT[0..OUT_LEN)`, when each of them has been written. -/
def State.output (s : State) : Option (List Byte) := s.outWin.readFrom 0 s.outLen.toNat

end Sys2Proof.Machine
end

