-- ==== Sys2Proof/Safety.lean ====
section
/-! DEFINITION. Safety.lean: what a safe run is: one that records no model fault (43_control.md R174). -/

namespace Sys2Proof

/-- A step with its model fault recorded (00_scope.md R13, 43_control.md R174). A faulting step has no defined next state, so the
state stays and carries the record; a refused step stays too. -/
def advance (s : Machine.State) : Machine.State :=
  match Machine.step s with
  | .next t => t
  | .fault f => s.recordFault f
  | .refused _ => s

/-- `k` steps with model faults recorded. -/
def advanceBy : Nat → Machine.State → Machine.State
  | 0, s => s
  | k + 1, s => advanceBy k (advance s)

/-- No model fault is recorded: what "a claim about a run must assume" (43_control.md R174). -/
def Machine.State.Clean (s : Machine.State) : Prop := s.modelFault = none

/-- The first `k` steps from `s` are safe. -/
def SafeFor (k : Nat) (s : Machine.State) : Prop := (advanceBy k s).Clean

end Sys2Proof
end

