-- ==== Sys2Proof/Certificates/Slice0/Obligations.lean ====
section
/-! DEFINITION. Certificates/Slice0/Obligations.lean: the statements for the provers. Each docstring names the rule of spec/ it
formalises; "the model's own" marks a clause that rests on a log entry. -/

open Sys2Proof Sys2Proof.Machine

/-! ### Encoding -/

/-- 30_encoding.md R83: a word is legal exactly when it is one of the four command words, and then it is that command. -/
def Obligations.DecodeAcceptsExactlyTheFourWords : Prop :=
  (∀ (w : Word) (i : Instr), decodeCmd w = .ok i ↔ w = encode i) ∧
  encode .nop = 0x00000000#32 ∧ encode .encode = 0x00000001#32 ∧ encode .decode = 0x00000002#32 ∧
  encode .clrhzd = 0x00000003#32

/-- 30_encoding.md R80, R82: the words written out field by field (RSV 31:4, OP 3:0) decode to their commands, and words with a
reserved opcode do not decode, nor words with bit 4 or bit 31 of RSV set, whatever OP is. -/
def Obligations.WrittenWordsDecode : Prop :=
  decodeCmd (0b0000000000000000000000000000#28 ++ 0b0000#4) = .ok .nop ∧
  decodeCmd (0b0000000000000000000000000000#28 ++ 0b0001#4) = .ok .encode ∧
  decodeCmd (0b0000000000000000000000000000#28 ++ 0b0010#4) = .ok .decode ∧
  decodeCmd (0b0000000000000000000000000000#28 ++ 0b0011#4) = .ok .clrhzd ∧
  decodeCmd (0b0000000000000000000000000000#28 ++ 0b0100#4) = .error .reservedOpcode ∧
  ∀ op : BitVec 4,
    decodeCmd (0b0000000000000000000000000001#28 ++ op) = .error .reservedBits ∧
    decodeCmd (0b1000000000000000000000000000#28 ++ op) = .error .reservedBits

/-! ### The step -/

/-- 43_control.md R172: the completion step executes the latched word: the command it decodes to, or ILLEGAL_CMD. The step also
takes the turn off the schedule (the model's own, log 4). -/
def Obligations.StepRunsLatchedCommand : Prop :=
  ∀ s : State, s.modelFault = none → s.cfg.wellFormed = true → s.completes →
    (∀ i, decodeCmd s.cw = .ok i → step s = exec i (s.setTurns s.env.turns.tail)) ∧
    (∀ r, decodeCmd s.cw = .error r →
      step s = .next ((s.setTurns s.env.turns.tail).completeError .illegalCmd s.cw))

/-- 43_control.md R175: the completion step is enabled only when BUSY = 1. A sequencer's turn of an idle block passes (the
model's own, log 4). -/
def Obligations.SequencerWaitsForBusy : Prop :=
  ∀ s : State, s.modelFault = none → s.cfg.wellFormed = true → s.mover = .sequencer → s.status.busy = false →
    step s = .next (s.setTurns s.env.turns.tail)

/-- The host's turn of a step is the next statement of the host program (00_scope.md R15, 20_memory.md R55, R56): nothing when there is
none, a read's answer or an unwritten cell's fault, a write's effect and response, a round of POLL, or the refusal of what is no
transaction. The schedule and the program that stand in State, the idle host and the refusal are the model's own, log 4, 5
and 16. -/
def Obligations.StepRunsHostTurn : Prop :=
  ∀ s : State, s.modelFault = none → s.cfg.wellFormed = true → s.mover = .host →
    step s = hostTurn (s.setTurns s.env.turns.tail) ∧
    (s.env.program = [] → step s = .next (s.setTurns s.env.turns.tail)) ∧
    (∀ a n rest, s.env.program = .read a n :: rest → legalSize n = true →
      step s = hostRead a n ((s.setTurns s.env.turns.tail).setProgram rest) ∧
      (∀ r d, memRead a n ((s.setTurns s.env.turns.tail).setProgram rest) = .value r d →
        step s = .next (((s.setTurns s.env.turns.tail).setProgram rest).respond (.read r d))) ∧
      (memRead a n ((s.setTurns s.env.turns.tail).setProgram rest) = .unwritten → step s = .fault .uninitRead)) ∧
    (∀ a n v rest, s.env.program = .write a n v :: rest → legalSize n = true → v.toNat < 256 ^ n →
      step s = hostWrite a n v ((s.setTurns s.env.turns.tail).setProgram rest) ∧
      step s = .next ((memWrite a n v ((s.setTurns s.env.turns.tail).setProgram rest)).2.respond
        (.write (memWrite a n v ((s.setTurns s.env.turns.tail).setProgram rest)).1))) ∧
    (∀ rest, s.env.program = .poll :: rest →
      step s = hostRead 0x00014#18 4
        ((s.setTurns s.env.turns.tail).setProgram (if s.status.busy then .poll :: rest else rest))) ∧
    (∀ op rest, s.env.program = op :: rest → op.wellFormed = false → step s = .refused .malformedTransaction)

/-- A placed command word runs at the very next step, in the state its acceptance leaves (43_control.md R170, R172; placing is the
model's own, log 6). -/
def Obligations.PlacedCommandRunsNext : Prop :=
  ∀ (s : State) (w : Nat) (i : Instr), s.modelFault = none → s.cfg.wellFormed = true →
    decodeCmd (BitVec.ofNat 32 w) = .ok i →
    step (s.withFetchWord 32 w) = exec i (s.accept (BitVec.ofNat 32 w))

/-- 43_control.md R180: a word with RSV != 0 or OP in 0x4 to 0xF, accepted and then completed, ends with ILLEGAL_CMD, ERR_INFO = the
word, zeroed results, LASTOP = its bits 3:0, and nothing else changed. That the word is placed and that the hidden datapath is kept are the model's own,
log 6 and 9. -/
def Obligations.IllegalWordCompletesWithIllegalCmd : Prop :=
  (∀ v : Word, (∃ r, decodeCmd v = .error r) ↔ (v.extractLsb' 4 28 ≠ 0#28 ∨ 4 ≤ (v.extractLsb' 0 4).toNat)) ∧
  (∀ (s : State) (v : Word) (r : DecodeReject), s.modelFault = none → s.cfg.wellFormed = true → decodeCmd v = .error r →
    step (s.placeCommand v) = .next
      { s with
        phase := .idle, cw := v,
        status := { busy := false, done := true, err := true, hzd := s.status.hzd, errcode := 3#4,
                    lastop := v.extractLsb' 0 4 },
        outLen := 0#32, zcount := 0#32, diglen := 0#32, errInfo := v })

/-- 43_control.md R174, 00_scope.md R13: a faulting step records its fault, and a recorded fault is sticky: however many steps are
tried the record stays. That the record is a field which `advance` writes and that every later step stops with it are the
model's own, log 8. -/
def Obligations.ModelFaultIsSticky : Prop :=
  (∀ (s : State) (f : Fault), s.modelFault = some f →
    step s = .fault f ∧ ∀ k, (advanceBy k s).modelFault = some f) ∧
  (∀ (s : State) (f : Fault), s.modelFault = none → step s = .fault f →
    (advance s).modelFault = some f ∧ ∀ k, (advanceBy (k + 1) s).modelFault = some f)

/-- 00_scope.md R8, 60_exceptions.md R209: a configuration is accepted exactly when it meets R8's constraints; the default one does;
another is refused. That the refusal comes at every step is the model's own, log 7. -/
def Obligations.ConfigurationAcceptedIffConstraints : Prop :=
  Config.default = { inCap := 1024, outCap := 1399, workCap := 1399 } ∧
  (∀ c : Config, c.wellFormed = true ↔
    (1 ≤ c.inCap ∧ c.inCap ≤ 47988 ∧ encSize c.inCap ≤ c.outCap ∧ c.outCap ≤ 65536 ∧
      encSize c.inCap ≤ c.workCap ∧ c.workCap ≤ 65536)) ∧
  (∀ s : State, s.modelFault = none → s.cfg.wellFormed = false → step s = .refused .illegalConfig)

/-! ### Host transactions -/

/-- 43_control.md R170: a CMD write of an idle block, whatever its word, gets OKAY and is accepted; nothing but the latch, the phase and
the five STATUS fields changes, and the result registers read as unspecified from then on. -/
def Obligations.CommandWriteIsAccepted : Prop :=
  ∀ (s : State) (v : Word), s.status.busy = false →
    memWrite 0x00010#18 4 v s = (.okay,
      { s with
        cw := v, phase := .run,
        status := { busy := true, done := false, err := false, hzd := s.status.hzd, errcode := 0#4,
                    lastop := v.extractLsb' 0 4 } }) ∧
    ∀ a : Addr, (a = 0x0001C#18 ∨ a = 0x00020#18 ∨ a = 0x00024#18 ∨ a = 0x00028#18) →
      memRead a 4 (memWrite 0x00010#18 4 v s).2 = .unspecified 4

/-- 10_state.md R35: an IN_LEN write of an idle block stores any value. -/
def Obligations.InLenWriteIsStored : Prop :=
  ∀ (s : State) (v : Word), s.status.busy = false →
    memWrite 0x00018#18 4 v s = (.okay, { s with inLen := v }) ∧
    memRead 0x00018#18 4 { s with inLen := v } = .value .okay v

/-- 70_reset_and_hazards.md R230: while BUSY = 1 a write that would be performed to CMD, IN_LEN or cells of the input window sets HZD and
changes nothing else, with OKAY; every other write changes nothing. In any phase a write to a read-only or reserved register
changes nothing. -/
def Obligations.BusyWritesAreDiscarded : Prop :=
  (∀ (s : State) (a : Addr) (n : Nat) (v : Word), s.status.busy = true → legalSize n = true →
    (((n = 4 ∧ (a = 0x00010#18 ∨ a = 0x00018#18)) ∨
        (0x10000 ≤ a.toNat ∧ a.toNat < 0x20000 ∧ n ≠ 2 ∧ (n = 4 → a.toNat % 4 = 0) ∧
          a.toNat - 0x10000 + n ≤ s.cfg.inCap)) →
      memWrite a n v s = (.okay, { s with status := { s.status with hzd := true } })) ∧
    (¬ ((n = 4 ∧ (a = 0x00010#18 ∨ a = 0x00018#18)) ∨
        (0x10000 ≤ a.toNat ∧ a.toNat < 0x20000 ∧ n ≠ 2 ∧ (n = 4 → a.toNat % 4 = 0) ∧
          a.toNat - 0x10000 + n ≤ s.cfg.inCap)) →
      (memWrite a n v s).2 = s)) ∧
  (∀ (s : State) (a : Addr) (n : Nat) (v : Word),
    a.toNat < 0x01000 → a ≠ 0x00010#18 → a ≠ 0x00018#18 → (memWrite a n v s).2 = s)

/-- 60_exceptions.md R197, 20_memory.md R63: exactly the listed transactions get ERROR; an ERROR read carries 0; an ERROR leaves the block
unchanged and stands on the port only. That the port's responses stand in State is the model's own, log 5. -/
def Obligations.BusErrorsExactly : Prop :=
  ∀ (s : State) (a : Addr) (n : Nat) (v : Word), legalSize n = true →
    ((∃ d, memRead a n s = .value .error d) ↔
      (n = 2 ∨ (a.toNat < 0x01000 ∧ (n ≠ 4 ∨ a.toNat % 4 ≠ 0)) ∨
        (0x01000 ≤ a.toNat ∧ a.toNat < 0x10000) ∨ 0x30000 ≤ a.toNat ∨
        (0x10000 ≤ a.toNat ∧ a.toNat < 0x20000 ∧
          ((n = 4 ∧ a.toNat % 4 ≠ 0) ∨ s.cfg.inCap < a.toNat - 0x10000 + n)) ∨
        (0x20000 ≤ a.toNat ∧ a.toNat < 0x30000 ∧
          ((n = 4 ∧ a.toNat % 4 ≠ 0) ∨ s.cfg.outCap < a.toNat - 0x20000 + n)))) ∧
    ((memWrite a n v s).1 = .error ↔
      (n = 2 ∨ (a.toNat < 0x01000 ∧ (n ≠ 4 ∨ a.toNat % 4 ≠ 0)) ∨
        (0x01000 ≤ a.toNat ∧ a.toNat < 0x10000) ∨ 0x20000 ≤ a.toNat ∨
        (0x10000 ≤ a.toNat ∧ a.toNat < 0x20000 ∧
          ((n = 4 ∧ a.toNat % 4 ≠ 0) ∨ s.cfg.inCap < a.toNat - 0x10000 + n)))) ∧
    (∀ d, memRead a n s = .value .error d → d = 0#32 ∧ hostRead a n s = .next (s.respond (.read .error 0#32))) ∧
    ((memWrite a n v s).1 = .error → hostWrite a n v s = .next (s.respond (.write .error)))

/-- 10_state.md R21 to R28, R35 to R39, 20_memory.md R52, R55: what a 32-bit read of each register of an idle block returns; reserved
offsets read 0. -/
def Obligations.RegisterReadsOfIdleBlock : Prop :=
  ∀ s : State, s.status.busy = false →
    memRead 0x00000#18 4 s = .value .okay 0x0B580001#32 ∧
    memRead 0x00004#18 4 s = .value .okay (BitVec.ofNat 32 s.cfg.inCap) ∧
    memRead 0x00008#18 4 s = .value .okay (BitVec.ofNat 32 s.cfg.outCap) ∧
    memRead 0x0000C#18 4 s = .value .okay (BitVec.ofNat 32 s.cfg.workCap) ∧
    memRead 0x00010#18 4 s = .value .okay 0#32 ∧
    memRead 0x00014#18 4 s = .value .okay s.status.word ∧
    memRead 0x00018#18 4 s = .value .okay s.inLen ∧
    memRead 0x0001C#18 4 s = .value .okay s.outLen ∧
    memRead 0x00020#18 4 s = .value .okay s.zcount ∧
    memRead 0x00024#18 4 s = .value .okay s.diglen ∧
    memRead 0x00028#18 4 s = .value .okay s.errInfo ∧
    (∀ a : Addr, 0x0002C ≤ a.toNat → a.toNat < 0x01000 → a.toNat % 4 = 0 → memRead a 4 s = .value .okay 0#32)

/-- 10_state.md R28: the layout of STATUS; bits 7:4 and 31:16 read 0. -/
def Obligations.StatusWordLayout : Prop :=
  ∀ st : Status,
    st.word.extractLsb' 0 1 = BitVec.ofBool st.busy ∧ st.word.extractLsb' 1 1 = BitVec.ofBool st.done ∧
    st.word.extractLsb' 2 1 = BitVec.ofBool st.err ∧ st.word.extractLsb' 3 1 = BitVec.ofBool st.hzd ∧
    st.word.extractLsb' 4 4 = 0#4 ∧ st.word.extractLsb' 8 4 = st.errcode ∧ st.word.extractLsb' 12 4 = st.lastop ∧
    st.word.extractLsb' 16 16 = 0#16

/-- 70_reset_and_hazards.md R232: while BUSY = 1 the result registers and the output cells read, with OKAY, a free value, zero-extended
from the size of the read, a new one at each read; every other read answers as the same idle block would. That the free value is
the opaque constant at a counter is the model's own (log 3), and so are the responses in State (log 5); the statement rests
on no value of the constant. -/
def Obligations.BusyReadsAreFreeValues : Prop :=
  ∀ (s : State) (a : Addr) (n : Nat), s.status.busy = true → legalSize n = true →
    (((n = 4 ∧ (a = 0x0001C#18 ∨ a = 0x00020#18 ∨ a = 0x00024#18 ∨ a = 0x00028#18)) ∨
        (0x20000 ≤ a.toNat ∧ a.toNat < 0x30000 ∧ n ≠ 2 ∧ (n = 4 → a.toNat % 4 = 0) ∧
          a.toNat - 0x20000 + n ≤ s.cfg.outCap)) →
      ∃ d : Word, d.toNat < 256 ^ n ∧ d.toNat = (Config.freeWord s.env.draws).toNat % 256 ^ n ∧
        hostRead a n s = .next
          { s with env := { s.env with responses := .read .okay d :: s.env.responses, draws := s.env.draws + 1 } }) ∧
    (¬ ((n = 4 ∧ (a = 0x0001C#18 ∨ a = 0x00020#18 ∨ a = 0x00024#18 ∨ a = 0x00028#18)) ∨
        (0x20000 ≤ a.toNat ∧ a.toNat < 0x30000 ∧ n ≠ 2 ∧ (n = 4 → a.toNat % 4 = 0) ∧
          a.toNat - 0x20000 + n ≤ s.cfg.outCap)) → a ≠ 0x00014#18 →
      memRead a n s = memRead a n { s with status := { s.status with busy := false } }) ∧
    memRead 0x00014#18 4 s = .value .okay s.status.word

/-- 20_memory.md R55, R65: a host read changes nothing of the block: only the port's responses, and the count of free values (the
model's own, log 3 and 5). -/
def Obligations.HostReadChangesOnlyThePort : Prop :=
  ∀ (s t : State) (a : Addr) (n : Nat), hostRead a n s = .next t →
    ∃ r d, t.env.responses = .read r d :: s.env.responses ∧
      t = { s with env := { s.env with responses := t.env.responses, draws := t.env.draws } } ∧
      (s.status.busy = false → t.env.draws = s.env.draws)

/-- 20_memory.md R60, R64, R67, R53: an aligned 32-bit write to the input window of an idle block reads back whole and byte by byte, bits
7:0 at the lowest address; no other cell and nothing else changes. -/
def Obligations.InputWordWriteReadsBack : Prop :=
  ∀ (s : State) (a : Addr) (v : Word), s.status.busy = false → 0x10000 ≤ a.toNat → a.toNat < 0x20000 → a.toNat % 4 = 0 →
    a.toNat - 0x10000 + 4 ≤ s.cfg.inCap →
    ∃ t, memWrite a 4 v s = (.okay, t) ∧ memRead a 4 t = .value .okay v ∧
      (∀ k : Nat, k < 4 → t.inWin.get (a.toNat - 0x10000 + k) = some (v.extractLsb' (8 * k) 8) ∧
        memRead (a + BitVec.ofNat 18 k) 1 t = .value .okay ((v.extractLsb' (8 * k) 8).setWidth 32)) ∧
      (∀ j : Nat, (j < a.toNat - 0x10000 ∨ a.toNat - 0x10000 + 4 ≤ j) → t.inWin.get j = s.inWin.get j) ∧
      t = { s with inWin := t.inWin }

/-- 20_memory.md R53, R59, R60: a byte write to the input window of an idle block, at any alignment, reads back; no other cell and nothing
else changes. -/
def Obligations.InputByteWriteReadsBack : Prop :=
  ∀ (s : State) (a : Addr) (b : Byte), s.status.busy = false → 0x10000 ≤ a.toNat → a.toNat < 0x20000 →
    a.toNat - 0x10000 + 1 ≤ s.cfg.inCap →
    ∃ t, memWrite a 1 (b.setWidth 32) s = (.okay, t) ∧ memRead a 1 t = .value .okay (b.setWidth 32) ∧
      (∀ j : Nat, j ≠ a.toNat - 0x10000 → t.inWin.get j = s.inWin.get j) ∧
      t = { s with inWin := t.inWin }

/-- 20_memory.md R55, R60, 70_reset_and_hazards.md R234: an output cell of an idle block reads as its byte, four cells as a little-endian
word; a read that covers a cell nothing has written is the model fault UninitRead (10_state.md R47). -/
def Obligations.OutputReadsOfIdleBlock : Prop :=
  ∀ (s : State) (i n : Nat), s.status.busy = false → i + n ≤ s.cfg.outCap → i < 0x10000 → (n = 1 ∨ (n = 4 ∧ i % 4 = 0)) →
    (∀ bs : List Byte, bs.length = n → (∀ k, k < n → s.outWin.get (i + k) = bs[k]?) →
      ∃ d : Word, memRead (BitVec.ofNat 18 (0x20000 + i)) n s = .value .okay d ∧
        d.toNat = ∑ k ∈ Finset.range n, (bs.getD k 0#8).toNat * 256 ^ k) ∧
    ((∃ k, k < n ∧ s.outWin.get (i + k) = none) →
      hostRead (BitVec.ofNat 18 (0x20000 + i)) n s = .fault .uninitRead)

/-- 20_memory.md R57: every host write to the output window gets ERROR and changes nothing; at any step only a conversion that completes
without error writes output cells (reset empties them). -/
def Obligations.OnlyConversionsWriteOutput : Prop :=
  (∀ (s : State) (a : Addr) (n : Nat) (v : Word), 0x20000 ≤ a.toNat → a.toNat < 0x30000 →
    memWrite a n v s = (.error, s)) ∧
  (∀ s t : State, step s = .next t → t.outWin ≠ s.outWin →
    s.mover = .reset ∨
      (s.completes ∧ (decodeCmd s.cw = .ok .encode ∨ decodeCmd s.cw = .ok .decode) ∧ t.status.err = false))

/-! ### Rules of the whole machine -/

/-- 10_state.md R32: HZD is sticky: only the completion of CLRHZD or reset clears it, and only a host write performed while BUSY = 1 sets
it. -/
def Obligations.HazardFlagIsSticky : Prop :=
  ∀ s t : State, step s = .next t →
    (s.status.hzd = true → t.status.hzd = false →
      s.mover = .reset ∨ (s.completes ∧ decodeCmd s.cw = .ok .clrhzd)) ∧
    (s.status.hzd = false → t.status.hzd = true →
      s.mover = .host ∧ s.status.busy = true ∧ ∃ a n v rest, s.env.program = .write a n v :: rest) ∧
    (s.completes → decodeCmd s.cw = .ok .clrhzd → t.status.hzd = false)

/-- 10_state.md R35, R43, 70_reset_and_hazards.md R225: IN_LEN and the input window change only by a write of the host to an idle block, or by
reset; a write to IN_LEN stores its data. -/
def Obligations.OnlyTheHostWritesInputs : Prop :=
  ∀ s t : State, step s = .next t → (t.inLen ≠ s.inLen ∨ t.inWin ≠ s.inWin) →
    s.mover = .reset ∨
      (s.mover = .host ∧ s.status.busy = false ∧ ∃ a n v rest, s.env.program = .write a n v :: rest ∧
        (t.inLen = s.inLen ∨ (a = 0x00018#18 ∧ t.inLen = v ∧ t.inWin = s.inWin)))

/-- 20_memory.md R68, 43_control.md R176, R177: the results (OUT_LEN, ZCOUNT, DIGLEN, ERR_INFO, OUT) change only at a completion or at reset. -/
def Obligations.ResultsChangeOnlyAtCompletion : Prop :=
  ∀ s t : State, step s = .next t → s.mover ≠ .reset → ¬ s.completes →
    t.outLen = s.outLen ∧ t.zcount = s.zcount ∧ t.diglen = s.diglen ∧ t.errInfo = s.errInfo ∧ t.outWin = s.outWin ∧
    (t.status.errcode = s.status.errcode ∨ t.status.errcode = 0#4)

/-- 20_memory.md R69, R72, 43_control.md R171: while a command runs a host turn changes nothing of the block but HZD: not the latched word,
not the inputs, not the phase. -/
def Obligations.HostCannotDisturbRunningCommand : Prop :=
  ∀ s t : State, s.status.busy = true → hostTurn s = .next t →
    t = { s with status := { s.status with hzd := t.status.hzd }, env := t.env }

/-- 60_exceptions.md R198, 70_reset_and_hazards.md R231, 43_control.md R179: a write discarded before the completion step changes nothing of what
the command leaves but HZD, and CLRHZD clears even that. -/
def Obligations.DiscardedWriteLeavesResult : Prop :=
  ∀ (s t : State) (i : Instr), exec i s = .next t →
    exec i { s with status := { s.status with hzd := true } } =
      .next (if i = .clrhzd then t else { t with status := { t.status with hzd := true } })

/-- 10_state.md R24 to R26: no step changes the capacities. 00_scope.md R13: nor does a step that goes on touch the fault record. That
both are fields of State is the model's own, log 7 and 8. -/
def Obligations.ConfigurationIsConstant : Prop :=
  ∀ s t : State, step s = .next t → t.cfg = s.cfg ∧ t.modelFault = s.modelFault

/-- 10_state.md R28, R36 to R44: the invariant of Machine/Invariant.lean holds after reset, in every configuration. The hidden
registers' clauses rest on the model's reset values (log 1). -/
def Obligations.ResetMeetsInvariant : Prop :=
  ∀ cfg : Config, (State.resetWith cfg).Inv

/-- 10_state.md R28, R36 to R44, 40_limb_reduction.md R108, R110, 41_encode.md R137, 42_decode.md R158: every step keeps the invariant. The ranges of the
hidden registers outside RUN are the model's own (log 9, 10). -/
def Obligations.StepKeepsInvariant : Prop :=
  ∀ s t : State, s.Inv → step s = .next t → t.Inv

/-- 10_state.md R46, R47: the values the spec gives for reset, and the constants the host reads; 00_scope.md R8: the default capacities.
That State starts with no fault recorded is the model's own, log 8. -/
def Obligations.ResetValues : Prop :=
  State.reset.cfg = { inCap := 1024, outCap := 1399, workCap := 1399 } ∧
  ∀ cfg : Config,
    (State.resetWith cfg).status.word = 0x00000000#32 ∧ (State.resetWith cfg).inLen = 0#32 ∧
    (State.resetWith cfg).outLen = 0#32 ∧ (State.resetWith cfg).zcount = 0#32 ∧ (State.resetWith cfg).diglen = 0#32 ∧
    (State.resetWith cfg).errInfo = 0#32 ∧ (State.resetWith cfg).phase = .idle ∧
    (State.resetWith cfg).modelFault = none ∧
    memRead 0x00000#18 4 (State.resetWith cfg) = .value .okay 0x0B580001#32 ∧
    memRead 0x00004#18 4 (State.resetWith cfg) = .value .okay (BitVec.ofNat 32 cfg.inCap) ∧
    memRead 0x00008#18 4 (State.resetWith cfg) = .value .okay (BitVec.ofNat 32 cfg.outCap) ∧
    memRead 0x0000C#18 4 (State.resetWith cfg) = .value .okay (BitVec.ofNat 32 cfg.workCap) ∧
    ∀ k, (State.resetWith cfg).inWin.get k = none ∧ (State.resetWith cfg).outWin.get k = none

/-- 70_reset_and_hazards.md R220: the reset event, in any state, puts every state element at its value of R46. That the configuration and the host's side but for its turn stay is the model's own, log 4 and 19. -/
def Obligations.ResetEventPutsResetValues : Prop :=
  ∀ s : State, s.modelFault = none → s.cfg.wellFormed = true → s.mover = .reset →
    ∃ t, step s = .next t ∧ t.status.word = 0#32 ∧ t.inLen = 0#32 ∧ t.outLen = 0#32 ∧ t.zcount = 0#32 ∧
      t.diglen = 0#32 ∧ t.errInfo = 0#32 ∧ t.phase = .idle ∧
      (∀ k, t.inWin.get k = none ∧ t.outWin.get k = none) ∧ t.cfg = s.cfg ∧
      t.env = { s.env with turns := s.env.turns.tail }

/-- 70_reset_and_hazards.md R240, 20_memory.md R68: a running command does not stay BUSY: if the machine goes on for one step more than the turns
chosen ahead, BUSY = 0 at some point on the way. That the schedule is finite and the sequencer moves when no turn is chosen is
the model's form of R240's fairness (log 4). -/
def Obligations.RunningCommandCompletes : Prop :=
  ∀ s t : State, s.status.busy = true → Sys2Proof.core.run (s.env.turns.length + 1) s = .next t →
    ∃ k u, k ≤ s.env.turns.length + 1 ∧ Sys2Proof.core.run k s = .next u ∧ u.status.busy = false

/-- 10_state.md R46 to R48: hidden state is never observed: two states that differ only in the datapath registers, the work buffer and an idle
block's latched word step alike. So no claim about what the host sees rests on the values the model gives them (log 1, 9,
10, 11). -/
def Obligations.HiddenStateIsUnobservable : Prop :=
  ∀ s s' : State, VisibleEq s s' → SameOutcome (step s) (step s')

/-- 30_encoding.md R88: a `POLL` reads STATUS; while the read returns BUSY = 1 the statement stays, and when it returns BUSY = 0 the program
goes on. -/
def Obligations.PollRepeatsWhileBusy : Prop :=
  ∀ (s : State) (rest : List HostOp), s.env.program = .poll :: rest →
    hostTurn s = .next { s with env := { s.env with
      program := if s.status.busy then .poll :: rest else rest,
      responses := .read .okay s.status.word :: s.env.responses } }

/-! ### NOP and CLRHZD, and the frame of every command -/

/-- 43_control.md R178: NOP's completion, in any state, and STATUS after an accepted NOP completes. That the hidden datapath is kept is
the model's own, log 9. -/
def Obligations.NopCompletes : Prop :=
  encode .nop = 0x00000000#32 ∧
  (∀ s : State, exec .nop s = .next
    { s with
      phase := .idle, errInfo := 0#32,
      status := { busy := false, done := true, err := false, hzd := s.status.hzd, errcode := 0#4,
                  lastop := s.status.lastop } }) ∧
  (∀ s : State, ∃ t, exec .nop (s.accept (encode .nop)) = .next t ∧ t.status.lastop = 0#4 ∧
    t.status.word = if s.status.hzd then 0x0000000A#32 else 0x00000002#32)

/-- 43_control.md R179: CLRHZD's completion, in any state, HZD set or not, and STATUS after an accepted CLRHZD completes. That the hidden
datapath is kept is the model's own, log 9. -/
def Obligations.ClrhzdCompletes : Prop :=
  encode .clrhzd = 0x00000003#32 ∧
  (∀ s : State, exec .clrhzd s = .next
    { s with
      phase := .idle, errInfo := 0#32,
      status := { busy := false, done := true, err := false, hzd := false, errcode := 0#4,
                  lastop := s.status.lastop } }) ∧
  (∀ s : State, ∃ t, exec .clrhzd (s.accept (encode .clrhzd)) = .next t ∧ t.status.lastop = 3#4 ∧
    t.status.word = 0x00003002#32)

/-- 43_control.md R175 to R179, 10_state.md R43, R44: what no command changes: the configuration, IN_LEN, the input window, the latched word,
LASTOP, HZD but for CLRHZD, and every output cell at or beyond OUT_LEN; after an error no output cell at all. -/
def Obligations.CommandFrame : Prop :=
  ∀ (s t : State) (i : Instr), s.cfg.wellFormed = true → exec i s = .next t →
    t.cfg = s.cfg ∧ t.inLen = s.inLen ∧ (∀ k, t.inWin.get k = s.inWin.get k) ∧ t.cw = s.cw ∧ t.modelFault = s.modelFault ∧
    t.env = s.env ∧ t.phase = .idle ∧ t.status.busy = false ∧ t.status.done = true ∧ t.status.lastop = s.status.lastop ∧
    (i ≠ .clrhzd → t.status.hzd = s.status.hzd) ∧
    (∀ k, t.outLen.toNat ≤ k → t.outWin.get k = s.outWin.get k) ∧
    ((i = .nop ∨ i = .clrhzd ∨ t.status.err = true) → ∀ k, t.outWin.get k = s.outWin.get k)

/-- 43_control.md R176, 60_exceptions.md R201: an error is precise: it changes the phase, the STATUS fields of a completion, the four result registers and
hidden state, and nothing else. -/
def Obligations.ErrorsArePrecise : Prop :=
  ∀ (s t : State) (i : Instr), exec i s = .next t → t.status.err = true →
    t = { s with
          phase := .idle, outLen := 0#32, zcount := 0#32, diglen := 0#32, errInfo := t.errInfo, dp := t.dp,
          status := { s.status with busy := false, done := true, err := true, errcode := t.status.errcode } }

/-- 43_control.md R174, R175: every command completes in every state whose input cells are written (or whose IN_LEN is out of range): ordinary data
ends no run. -/
def Obligations.WrittenInputAlwaysCompletes : Prop :=
  ∀ (s : State) (i : Instr),
    (s.inLen.toNat ≤ s.cfg.inCap → ∀ k, k < s.inLen.toNat → (s.inWin.get k).isSome) →
    ∃ t, exec i s = .next t ∧ t.status.busy = false ∧ t.status.done = true ∧ t.phase = .idle

/-! ### ENCODE and DECODE -/

/-- 41_encode.md R139: a successful ENCODE leaves the reference form, with ZCOUNT, DIGLEN and OUT_LEN, and STATUS and ERR_INFO as R177 says; output
cells beyond are kept. It succeeds on every written input within IN_CAP. -/
def Obligations.EncodeLeavesReferenceForm : Prop :=
  ∀ (s : State) (u : List Byte), s.cfg.wellFormed = true → s.inLen.toNat ≤ s.cfg.inCap → s.input = some u →
    ∃ t, exec .encode s = .next t ∧
      t.output = some (List.replicate (leadZ 0x00#8 u) 0x31#8 ++
        (convertDigits 256 58 ((u.drop (leadZ 0x00#8 u)).map BitVec.toNat)).map alph) ∧
      t.outLen.toNat = t.zcount.toNat + t.diglen.toNat ∧
      t.zcount.toNat = leadZ 0x00#8 u ∧
      t.diglen.toNat = (convertDigits 256 58 ((u.drop (leadZ 0x00#8 u)).map BitVec.toNat)).length ∧
      t.errInfo = 0#32 ∧ t.status = { s.status with busy := false, done := true, err := false, errcode := 0#4 } ∧
      (∀ k, t.outLen.toNat ≤ k → t.outWin.get k = s.outWin.get k)

/-- 42_decode.md R159: a successful DECODE leaves the reference form. It succeeds on every written input within IN_CAP whose codes are all in the
alphabet. -/
def Obligations.DecodeLeavesReferenceForm : Prop :=
  ∀ (s : State) (u : List Byte), s.cfg.wellFormed = true → s.inLen.toNat ≤ s.cfg.inCap → s.input = some u →
    (∀ c ∈ u, idx c ≠ none) →
    ∃ t, exec .decode s = .next t ∧
      t.output = some (List.replicate (leadZ 0x31#8 u) 0x00#8 ++
        (convertDigits 58 256 ((u.drop (leadZ 0x31#8 u)).filterMap idx)).map (BitVec.ofNat 8)) ∧
      t.outLen.toNat = t.zcount.toNat + t.diglen.toNat ∧
      t.zcount.toNat = leadZ 0x31#8 u ∧
      t.diglen.toNat = (convertDigits 58 256 ((u.drop (leadZ 0x31#8 u)).filterMap idx)).length ∧
      t.errInfo = 0#32 ∧ t.status = { s.status with busy := false, done := true, err := false, errcode := 0#4 } ∧
      (∀ k, t.outLen.toNat ≤ k → t.outWin.get k = s.outWin.get k)

/-- 60_exceptions.md R193: ENCODE and DECODE with IN_LEN > IN_CAP end with LEN_RANGE and ERR_INFO = IN_LEN, whatever the input cells hold or do not
hold. That the hidden datapath is kept is the model's own, log 9. -/
def Obligations.LengthOutOfRangeCompletesWithError : Prop :=
  ∀ (s : State) (i : Instr), (i = .encode ∨ i = .decode) → s.cfg.inCap < s.inLen.toNat →
    exec i s = .next
      { s with
        phase := .idle, outLen := 0#32, zcount := 0#32, diglen := 0#32, errInfo := s.inLen,
        status := { busy := false, done := true, err := true, hzd := s.status.hzd, errcode := 2#4,
                    lastop := s.status.lastop } }

/-- 60_exceptions.md R192, 42_decode.md R153: a DECODE whose input has an invalid code ends with INVALID_CHARACTER and the smallest invalid index; no
result, no output cell written, and nothing else changed but hidden state. ENCODE never raises it. -/
def Obligations.DecodeReportsFirstInvalidCharacter : Prop :=
  (∀ (s : State) (u : List Byte) (j : Nat) (c : Byte), s.inLen.toNat ≤ s.cfg.inCap → s.input = some u →
    u[j]? = some c → idx c = none → (∀ k b, k < j → u[k]? = some b → idx b ≠ none) →
    ∃ t, exec .decode s = .next t ∧
      t = { s with
            phase := .idle, outLen := 0#32, zcount := 0#32, diglen := 0#32, errInfo := BitVec.ofNat 32 j, dp := t.dp,
            status := { busy := false, done := true, err := true, hzd := s.status.hzd, errcode := 1#4,
                        lastop := s.status.lastop } }) ∧
  (∀ s t : State, exec .encode s = .next t → t.status.errcode ≠ 1#4)

/-- 10_state.md R47, 43_control.md R174: a conversion within IN_CAP that includes a cell nothing has written is the model fault UninitRead, and so is a
host read of one, byte or word (20_memory.md R55). -/
def Obligations.UnwrittenCellFaults : Prop :=
  (∀ (s : State) (i : Instr) (k : Nat), (i = .encode ∨ i = .decode) → s.inLen.toNat ≤ s.cfg.inCap →
    k < s.inLen.toNat → s.inWin.get k = none → exec i s = .fault .uninitRead) ∧
  (∀ (s : State) (k : Nat), k < s.cfg.inCap → k < 0x10000 → s.inWin.get k = none →
    hostRead (BitVec.ofNat 18 (0x10000 + k)) 1 s = .fault .uninitRead) ∧
  (∀ (s : State) (k : Nat), k % 4 = 0 → k + 4 ≤ s.cfg.inCap → k < 0x10000 → (∃ j, j < 4 ∧ s.inWin.get (k + j) = none) →
    hostRead (BitVec.ofNat 18 (0x10000 + k)) 4 s = .fault .uninitRead)

/-- 41_encode.md R136, 42_decode.md R157: the edge cases of both directions: the empty input, the all-zero input, and `"0OIl"`. -/
def Obligations.EmptyAndAllZeroInputs : Prop :=
  (∀ s : State, s.inLen = 0#32 → ∀ i, (i = .encode ∨ i = .decode) →
    ∃ t, exec i s = .next t ∧ t.status.err = false ∧ t.outLen = 0#32 ∧ t.zcount = 0#32 ∧ t.diglen = 0#32 ∧
      t.outWin = s.outWin) ∧
  (∀ s : State, s.inLen.toNat ≤ s.cfg.inCap → s.input = some (List.replicate s.inLen.toNat 0x00#8) →
    ∃ t, exec .encode s = .next t ∧ t.status.err = false ∧ t.outLen = s.inLen ∧ t.zcount = s.inLen ∧ t.diglen = 0#32 ∧
      t.output = some (List.replicate s.inLen.toNat 0x31#8)) ∧
  (∀ s : State, s.inLen.toNat ≤ s.cfg.inCap → s.input = some (List.replicate s.inLen.toNat 0x31#8) →
    ∃ t, exec .decode s = .next t ∧ t.status.err = false ∧ t.outLen = s.inLen ∧ t.zcount = s.inLen ∧ t.diglen = 0#32 ∧
      t.output = some (List.replicate s.inLen.toNat 0x00#8)) ∧
  (∀ s : State, s.inLen.toNat ≤ s.cfg.inCap → s.input = some [0x30#8, 0x4F#8, 0x49#8, 0x6C#8] →
    ∃ t, exec .decode s = .next t ∧ t.status.err = true ∧ t.status.errcode = 1#4 ∧ t.errInfo = 0#32)

/-- 40_limb_reduction.md R108, 60_exceptions.md R195, R196: no command ever completes with CARRY_OVERFLOW or a reserved code. -/
def Obligations.CarryOverflowIsNeverRaised : Prop :=
  ∀ (s t : State) (i : Instr), exec i s = .next t → t.status.errcode.toNat ≤ 2

/-- 41_encode.md R138: the output of a successful ENCODE begins with exactly ZCOUNT codes 0x31. -/
def Obligations.EncodeLeadingZeroFidelity : Prop :=
  ∀ s t : State, s.cfg.wellFormed = true → exec .encode s = .next t → t.status.err = false →
    (∃ u, s.input = some u ∧ t.zcount.toNat = leadZ 0x00#8 u) ∧
    (∀ k, k < t.zcount.toNat → t.outWin.get k = some 0x31#8) ∧
    (t.zcount.toNat < t.outLen.toNat → t.outWin.get t.zcount.toNat ≠ some 0x31#8 ∧
      (t.outWin.get t.zcount.toNat).isSome)

/-- 42_decode.md R160: ENCODE of bytes, its output copied to the input window, then DECODE, returns the bytes; with the default parameters the
condition holds for at most 749 bytes. -/
def Obligations.RoundTripBytesFirst : Prop :=
  (∀ (s t s' : State) (b : List Byte), s.cfg.wellFormed = true → s.input = some b → encSize b.length ≤ s.cfg.inCap →
    exec .encode s = .next t →
    s'.cfg = s.cfg → s'.inLen = t.outLen → s'.input = t.output →
    ∃ t', exec .decode s' = .next t' ∧ t'.status.err = false ∧ t'.outLen = s.inLen ∧ t'.output = some b) ∧
  (∀ m, encSize m ≤ 1024 ↔ m ≤ 749)

/-- 42_decode.md R161: DECODE of codes all in the alphabet, its output copied to the input window, then ENCODE, returns the codes. -/
def Obligations.RoundTripTextFirst : Prop :=
  ∀ (s t s' : State) (c : List Byte), s.cfg.wellFormed = true → s.inLen.toNat ≤ s.cfg.inCap → s.input = some c →
    (∀ x ∈ c, idx x ≠ none) → exec .decode s = .next t →
    s'.cfg = s.cfg → s'.inLen = t.outLen → s'.input = t.output →
    ∃ t', exec .encode s' = .next t' ∧ t'.status.err = false ∧ t'.outLen = s.inLen ∧ t'.output = some c

/-- 41_encode.md R137: ENCODE's output fits the output window; the bound ENC_SIZE(n) is superadditive in the leading zeros and reached by `n` bytes
0xFF. -/
def Obligations.EncodeOutputFits : Prop :=
  (∀ s t : State, s.cfg.wellFormed = true → exec .encode s = .next t → t.status.err = false →
    t.outLen.toNat = t.zcount.toNat + t.diglen.toNat ∧
    t.diglen.toNat ≤ encSize (s.inLen.toNat - t.zcount.toNat) ∧
    t.outLen.toNat ≤ encSize s.inLen.toNat ∧ encSize s.inLen.toNat ≤ encSize s.cfg.inCap ∧
    encSize s.cfg.inCap ≤ s.cfg.outCap) ∧
  (∀ z m : Nat, z + encSize m ≤ encSize (z + m)) ∧
  (∀ n : Nat, (convertDigits 256 58 (List.replicate n 0xFF)).length = encSize n)

/-- 42_decode.md R158: DECODE's output is no longer than its input and fits the output window. -/
def Obligations.DecodeOutputFits : Prop :=
  (∀ s t : State, s.cfg.wellFormed = true → exec .decode s = .next t → t.status.err = false →
    t.outLen.toNat = t.zcount.toNat + t.diglen.toNat ∧
    t.diglen.toNat ≤ decSize (s.inLen.toNat - t.zcount.toNat) ∧
    t.zcount.toNat + decSize (s.inLen.toNat - t.zcount.toNat) ≤ s.inLen.toNat ∧
    s.inLen.toNat ≤ s.cfg.inCap ∧ s.cfg.inCap ≤ s.cfg.outCap) ∧
  (∀ m : Nat, decSize m ≤ m ∧ m ≤ encSize m)

/-! ### The datapath -/

/-- 40_limb_reduction.md R103, R109: the limb step is exact, and no carry or intermediate of a step or of the loop outgrows its register:
in ENCODE a carry is at most 255, in DECODE at most 57, and `t` at most 14847. -/
def Obligations.LimbStepExactAndBounded : Prop :=
  (∀ (dir : Direction) (d c : Nat),
    (limbStep dir.rIn dir.rOut d c).1 + dir.rOut * (limbStep dir.rIn dir.rOut d c).2 = dir.rIn * d + c ∧
    (limbStep dir.rIn dir.rOut d c).1 < dir.rOut ∧
    (d < dir.rOut → c < dir.rIn →
      limbIntermediate dir.rIn d c ≤ 14847 ∧ (limbStep dir.rIn dir.rOut d c).2 < dir.rIn)) ∧
  (∀ (dir : Direction) (p : Nat) (c : Chain), (∀ k, c.work.getD k 0 < dir.rOut) → c.carry < dir.rIn → c.t ≤ 14847 →
    (foldLoop dir.rIn dir.rOut p c).carry < dir.rIn ∧ (foldLoop dir.rIn dir.rOut p c).t ≤ 14847 ∧
    ∀ k, (foldLoop dir.rIn dir.rOut p c).work.getD k 0 < dir.rOut)

/-- 40_limb_reduction.md R110: after the folds of a symbol sequence whose first digit is not 0, in a buffer of at least the exact size: the positions above
the high-water mark are 0, the one at it is not, the buffer holds the value of the symbols, and the mark is the number of its
significant digits. With no symbol the mark is 0. -/
def Obligations.FoldInvariant : Prop :=
  ∀ (dir : Direction) (j size : Nat) (syms : List Byte), (∀ b ∈ syms, dir.digit b ≠ none) →
    (∀ b, syms.head? = some b → dir.digit b ≠ some 0) → dir.workSize syms.length ≤ size →
    ∃ c, foldSymbols dir j syms (Chain.cleared size) = (.done, c) ∧ c.work.length = size ∧ c.length ≤ size ∧
      (∀ k, k < size - c.length → c.work.getD k 0 = 0) ∧
      (0 < c.length → c.work.getD (size - c.length) 0 ≠ 0) ∧
      (∀ x ∈ c.work, x < dir.rOut) ∧
      valueR dir.rOut c.work = valueR dir.rIn (syms.filterMap dir.digit) ∧
      c.length = (digitsR dir.rOut (valueR dir.rIn (syms.filterMap dir.digit))).length ∧
      skip c.work = size - c.length ∧ (syms = [] → c.length = 0)

/-- 40_limb_reduction.md R113: the digits left after the skip and the high-water mark do not depend on the buffer's size, once it is at least the exact
one; nor does how the folds end. -/
def Obligations.BufferSizeIndependence : Prop :=
  ∀ (dir : Direction) (j size size' : Nat) (syms : List Byte),
    dir.workSize syms.length ≤ size → dir.workSize syms.length ≤ size' →
    (foldSymbols dir j syms (Chain.cleared size)).1 = (foldSymbols dir j syms (Chain.cleared size')).1 ∧
    (foldSymbols dir j syms (Chain.cleared size)).2.length = (foldSymbols dir j syms (Chain.cleared size')).2.length ∧
    (foldSymbols dir j syms (Chain.cleared size)).2.work.drop (skip (foldSymbols dir j syms (Chain.cleared size)).2.work) =
      (foldSymbols dir j syms (Chain.cleared size')).2.work.drop
        (skip (foldSymbols dir j syms (Chain.cleared size')).2.work)

/-- 40_limb_reduction.md R106: ENC_SIZE and DEC_SIZE are the least exponents, and the values the rule lists. -/
def Obligations.SizesAreLeastExponents : Prop :=
  (∀ m : Nat, 256 ^ m ≤ 58 ^ encSize m ∧ ∀ k, k < encSize m → 58 ^ k < 256 ^ m) ∧
  (∀ m : Nat, 58 ^ m ≤ 256 ^ decSize m ∧ ∀ k, k < decSize m → 256 ^ k < 58 ^ m) ∧
  (List.range 9).map encSize = [0, 2, 3, 5, 6, 7, 9, 10, 11] ∧
  (List.range 9).map decSize = [0, 1, 2, 3, 3, 4, 5, 6, 6] ∧
  encSize 11 = 16 ∧ decSize 11 = 9 ∧ encSize 32 = 44 ∧ decSize 32 = 24 ∧
  encSize 1024 = 1399 ∧ decSize 1024 = 750

/-- 40_limb_reduction.md R107: the size a command uses, and that in a legal configuration the work buffer never lacks a cell.
That the size register still holds the size after the completion is the model's own, log 9. -/
def Obligations.WorkBufferNeverLacksACell : Prop :=
  (∀ m : Nat, decSize m ≤ encSize m) ∧ (∀ m m' : Nat, m ≤ m' → encSize m ≤ encSize m') ∧
  (∀ (c : Config) (dir : Direction) (n z : Nat), c.wellFormed = true → n ≤ c.inCap →
    dir.workSize (n - z) ≤ encSize c.inCap ∧ encSize c.inCap ≤ c.workCap) ∧
  (∀ (s t : State) (u : List Byte), s.cfg.wellFormed = true → s.inLen.toNat ≤ s.cfg.inCap → s.input = some u →
    (exec .encode s = .next t → t.dp.size.toNat = encSize (u.length - leadZ 0x00#8 u)) ∧
    (exec .decode s = .next t → t.dp.size.toNat = decSize (u.length - leadZ 0x31#8 u)))

/-- 40_limb_reduction.md R111: LeadZ is the largest run of leading zero symbols, and it depends on no symbol after the one that ends the run. -/
def Obligations.LeadingZeroCount : Prop :=
  Direction.toBase58.zeroIn = 0x00#8 ∧ Direction.toBytes.zeroIn = 0x31#8 ∧
  ∀ (zsym : Byte) (u : List Byte),
    leadZ zsym u ≤ u.length ∧ (∀ k, k < leadZ zsym u → u[k]? = some zsym) ∧
    (leadZ zsym u < u.length → u[leadZ zsym u]? ≠ some zsym) ∧
    (∀ v : List Byte, leadZ zsym u < u.length → leadZ zsym (u.take (leadZ zsym u + 1) ++ v) = leadZ zsym u)

/-- 40_limb_reduction.md R112: the skip stops at the first non-zero digit, or at the size. -/
def Obligations.SkipStopsAtFirstNonZero : Prop :=
  ∀ w : List Nat, skip w ≤ w.length ∧ (∀ k, k < skip w → w[k]? = some 0) ∧ (skip w < w.length → w[skip w]? ≠ some 0)

/-- 40_limb_reduction.md R100, R101: ALPH is the table of R100 in order, IDX is its inverse, and 198 codes are INVALID. That the
characters' codes are ASCII is presumed, log 17. -/
def Obligations.AlphabetMapsAreInverse : Prop :=
  (List.range 58).map alph =
    [0x31#8, 0x32#8, 0x33#8, 0x34#8, 0x35#8, 0x36#8, 0x37#8, 0x38#8, 0x39#8, 0x41#8, 0x42#8, 0x43#8, 0x44#8, 0x45#8, 0x46#8, 0x47#8,
     0x48#8, 0x4A#8, 0x4B#8, 0x4C#8, 0x4D#8, 0x4E#8, 0x50#8, 0x51#8, 0x52#8, 0x53#8, 0x54#8, 0x55#8, 0x56#8, 0x57#8, 0x58#8, 0x59#8,
     0x5A#8, 0x61#8, 0x62#8, 0x63#8, 0x64#8, 0x65#8, 0x66#8, 0x67#8, 0x68#8, 0x69#8, 0x6A#8, 0x6B#8, 0x6D#8, 0x6E#8, 0x6F#8, 0x70#8,
     0x71#8, 0x72#8, 0x73#8, 0x74#8, 0x75#8, 0x76#8, 0x77#8, 0x78#8, 0x79#8, 0x7A#8] ∧
  (∀ (c : Byte) (d : Nat), idx c = some d ↔ d < 58 ∧ alph d = c) ∧
  ((List.range 256).filter fun c => (idx (BitVec.ofNat 8 c)).isNone).length = 198

/-! ### Reads of the input window -/

/-- 20_memory.md R55, R60, 70_reset_and_hazards.md R232: an input cell reads as its byte, four cells as a little-endian word, whether or
not a command runs; a read that covers a cell nothing has written is the model fault UninitRead (10_state.md R47). That the
port's responses stand in State is the model's own, log 5. -/
def Obligations.InputReads : Prop :=
  ∀ (s : State) (i n : Nat), i + n ≤ s.cfg.inCap → i < 0x10000 → (n = 1 ∨ (n = 4 ∧ i % 4 = 0)) →
    (∀ bs : List Byte, bs.length = n → (∀ k, k < n → s.inWin.get (i + k) = bs[k]?) →
      ∃ d : Word, hostRead (BitVec.ofNat 18 (0x10000 + i)) n s = .next (s.respond (.read .okay d)) ∧
        d.toNat = ∑ k ∈ Finset.range n, (bs.getD k 0#8).toNat * 256 ^ k) ∧
    ((∃ k, k < n ∧ s.inWin.get (i + k) = none) →
      hostRead (BitVec.ofNat 18 (0x10000 + i)) n s = .fault .uninitRead)
end

