-- ==== Sys2Proof/Laws/State.lean ====
section
/-! SUPPORT. Laws/State.lean: what each named update of State leaves in each field, one lemma a field. -/

namespace Sys2Proof.Machine

/-! ### `State.accept` -/

@[simp] theorem State.accept_cfg (v : Word) (s : State) : (s.accept v).cfg = s.cfg := rfl
@[simp] theorem State.accept_status (v : Word) (s : State) : (s.accept v).status = s.status.accepted v := rfl
@[simp] theorem State.accept_inLen (v : Word) (s : State) : (s.accept v).inLen = s.inLen := rfl
@[simp] theorem State.accept_outLen (v : Word) (s : State) : (s.accept v).outLen = s.outLen := rfl
@[simp] theorem State.accept_zcount (v : Word) (s : State) : (s.accept v).zcount = s.zcount := rfl
@[simp] theorem State.accept_diglen (v : Word) (s : State) : (s.accept v).diglen = s.diglen := rfl
@[simp] theorem State.accept_errInfo (v : Word) (s : State) : (s.accept v).errInfo = s.errInfo := rfl
@[simp] theorem State.accept_phase (v : Word) (s : State) : (s.accept v).phase = .run := rfl
@[simp] theorem State.accept_cw (v : Word) (s : State) : (s.accept v).cw = v := rfl
@[simp] theorem State.accept_dp (v : Word) (s : State) : (s.accept v).dp = s.dp := rfl
@[simp] theorem State.accept_inWin (v : Word) (s : State) : (s.accept v).inWin = s.inWin := rfl
@[simp] theorem State.accept_outWin (v : Word) (s : State) : (s.accept v).outWin = s.outWin := rfl
@[simp] theorem State.accept_modelFault (v : Word) (s : State) : (s.accept v).modelFault = s.modelFault := rfl
@[simp] theorem State.accept_env (v : Word) (s : State) : (s.accept v).env = s.env := rfl

/-! ### `State.completeOk` -/

@[simp] theorem State.completeOk_cfg (s : State) : (s.completeOk).cfg = s.cfg := rfl
@[simp] theorem State.completeOk_status (s : State) : (s.completeOk).status = s.status.completedOk := rfl
@[simp] theorem State.completeOk_inLen (s : State) : (s.completeOk).inLen = s.inLen := rfl
@[simp] theorem State.completeOk_outLen (s : State) : (s.completeOk).outLen = s.outLen := rfl
@[simp] theorem State.completeOk_zcount (s : State) : (s.completeOk).zcount = s.zcount := rfl
@[simp] theorem State.completeOk_diglen (s : State) : (s.completeOk).diglen = s.diglen := rfl
@[simp] theorem State.completeOk_errInfo (s : State) : (s.completeOk).errInfo = 0#32 := rfl
@[simp] theorem State.completeOk_phase (s : State) : (s.completeOk).phase = .idle := rfl
@[simp] theorem State.completeOk_cw (s : State) : (s.completeOk).cw = s.cw := rfl
@[simp] theorem State.completeOk_dp (s : State) : (s.completeOk).dp = s.dp := rfl
@[simp] theorem State.completeOk_inWin (s : State) : (s.completeOk).inWin = s.inWin := rfl
@[simp] theorem State.completeOk_outWin (s : State) : (s.completeOk).outWin = s.outWin := rfl
@[simp] theorem State.completeOk_modelFault (s : State) : (s.completeOk).modelFault = s.modelFault := rfl
@[simp] theorem State.completeOk_env (s : State) : (s.completeOk).env = s.env := rfl

/-! ### `State.completeResult` -/

@[simp] theorem State.completeResult_cfg (a b c : Nat) (s : State) : (s.completeResult a b c).cfg = s.cfg := rfl
@[simp] theorem State.completeResult_status (a b c : Nat) (s : State) : (s.completeResult a b c).status = s.status.completedOk := rfl
@[simp] theorem State.completeResult_inLen (a b c : Nat) (s : State) : (s.completeResult a b c).inLen = s.inLen := rfl
@[simp] theorem State.completeResult_outLen (a b c : Nat) (s : State) : (s.completeResult a b c).outLen = BitVec.ofNat 32 a := rfl
@[simp] theorem State.completeResult_zcount (a b c : Nat) (s : State) : (s.completeResult a b c).zcount = BitVec.ofNat 32 b := rfl
@[simp] theorem State.completeResult_diglen (a b c : Nat) (s : State) : (s.completeResult a b c).diglen = BitVec.ofNat 32 c := rfl
@[simp] theorem State.completeResult_errInfo (a b c : Nat) (s : State) : (s.completeResult a b c).errInfo = 0#32 := rfl
@[simp] theorem State.completeResult_phase (a b c : Nat) (s : State) : (s.completeResult a b c).phase = .idle := rfl
@[simp] theorem State.completeResult_cw (a b c : Nat) (s : State) : (s.completeResult a b c).cw = s.cw := rfl
@[simp] theorem State.completeResult_dp (a b c : Nat) (s : State) : (s.completeResult a b c).dp = s.dp := rfl
@[simp] theorem State.completeResult_inWin (a b c : Nat) (s : State) : (s.completeResult a b c).inWin = s.inWin := rfl
@[simp] theorem State.completeResult_outWin (a b c : Nat) (s : State) : (s.completeResult a b c).outWin = s.outWin := rfl
@[simp] theorem State.completeResult_modelFault (a b c : Nat) (s : State) : (s.completeResult a b c).modelFault = s.modelFault := rfl
@[simp] theorem State.completeResult_env (a b c : Nat) (s : State) : (s.completeResult a b c).env = s.env := rfl

/-! ### `State.completeError` -/

@[simp] theorem State.completeError_cfg (e : CmdError) (info : Word) (s : State) : (s.completeError e info).cfg = s.cfg := rfl
@[simp] theorem State.completeError_status (e : CmdError) (info : Word) (s : State) : (s.completeError e info).status = s.status.completedWith e := rfl
@[simp] theorem State.completeError_inLen (e : CmdError) (info : Word) (s : State) : (s.completeError e info).inLen = s.inLen := rfl
@[simp] theorem State.completeError_outLen (e : CmdError) (info : Word) (s : State) : (s.completeError e info).outLen = 0#32 := rfl
@[simp] theorem State.completeError_zcount (e : CmdError) (info : Word) (s : State) : (s.completeError e info).zcount = 0#32 := rfl
@[simp] theorem State.completeError_diglen (e : CmdError) (info : Word) (s : State) : (s.completeError e info).diglen = 0#32 := rfl
@[simp] theorem State.completeError_errInfo (e : CmdError) (info : Word) (s : State) : (s.completeError e info).errInfo = info := rfl
@[simp] theorem State.completeError_phase (e : CmdError) (info : Word) (s : State) : (s.completeError e info).phase = .idle := rfl
@[simp] theorem State.completeError_cw (e : CmdError) (info : Word) (s : State) : (s.completeError e info).cw = s.cw := rfl
@[simp] theorem State.completeError_dp (e : CmdError) (info : Word) (s : State) : (s.completeError e info).dp = s.dp := rfl
@[simp] theorem State.completeError_inWin (e : CmdError) (info : Word) (s : State) : (s.completeError e info).inWin = s.inWin := rfl
@[simp] theorem State.completeError_outWin (e : CmdError) (info : Word) (s : State) : (s.completeError e info).outWin = s.outWin := rfl
@[simp] theorem State.completeError_modelFault (e : CmdError) (info : Word) (s : State) : (s.completeError e info).modelFault = s.modelFault := rfl
@[simp] theorem State.completeError_env (e : CmdError) (info : Word) (s : State) : (s.completeError e info).env = s.env := rfl

/-! ### `State.discardWrite` -/

@[simp] theorem State.discardWrite_cfg (s : State) : (s.discardWrite).cfg = s.cfg := rfl
@[simp] theorem State.discardWrite_status (s : State) : (s.discardWrite).status = s.status.hazard := rfl
@[simp] theorem State.discardWrite_inLen (s : State) : (s.discardWrite).inLen = s.inLen := rfl
@[simp] theorem State.discardWrite_outLen (s : State) : (s.discardWrite).outLen = s.outLen := rfl
@[simp] theorem State.discardWrite_zcount (s : State) : (s.discardWrite).zcount = s.zcount := rfl
@[simp] theorem State.discardWrite_diglen (s : State) : (s.discardWrite).diglen = s.diglen := rfl
@[simp] theorem State.discardWrite_errInfo (s : State) : (s.discardWrite).errInfo = s.errInfo := rfl
@[simp] theorem State.discardWrite_phase (s : State) : (s.discardWrite).phase = s.phase := rfl
@[simp] theorem State.discardWrite_cw (s : State) : (s.discardWrite).cw = s.cw := rfl
@[simp] theorem State.discardWrite_dp (s : State) : (s.discardWrite).dp = s.dp := rfl
@[simp] theorem State.discardWrite_inWin (s : State) : (s.discardWrite).inWin = s.inWin := rfl
@[simp] theorem State.discardWrite_outWin (s : State) : (s.discardWrite).outWin = s.outWin := rfl
@[simp] theorem State.discardWrite_modelFault (s : State) : (s.discardWrite).modelFault = s.modelFault := rfl
@[simp] theorem State.discardWrite_env (s : State) : (s.discardWrite).env = s.env := rfl

/-! ### `State.respond` -/

@[simp] theorem State.respond_cfg (r : Response) (s : State) : (s.respond r).cfg = s.cfg := rfl
@[simp] theorem State.respond_status (r : Response) (s : State) : (s.respond r).status = s.status := rfl
@[simp] theorem State.respond_inLen (r : Response) (s : State) : (s.respond r).inLen = s.inLen := rfl
@[simp] theorem State.respond_outLen (r : Response) (s : State) : (s.respond r).outLen = s.outLen := rfl
@[simp] theorem State.respond_zcount (r : Response) (s : State) : (s.respond r).zcount = s.zcount := rfl
@[simp] theorem State.respond_diglen (r : Response) (s : State) : (s.respond r).diglen = s.diglen := rfl
@[simp] theorem State.respond_errInfo (r : Response) (s : State) : (s.respond r).errInfo = s.errInfo := rfl
@[simp] theorem State.respond_phase (r : Response) (s : State) : (s.respond r).phase = s.phase := rfl
@[simp] theorem State.respond_cw (r : Response) (s : State) : (s.respond r).cw = s.cw := rfl
@[simp] theorem State.respond_dp (r : Response) (s : State) : (s.respond r).dp = s.dp := rfl
@[simp] theorem State.respond_inWin (r : Response) (s : State) : (s.respond r).inWin = s.inWin := rfl
@[simp] theorem State.respond_outWin (r : Response) (s : State) : (s.respond r).outWin = s.outWin := rfl
@[simp] theorem State.respond_modelFault (r : Response) (s : State) : (s.respond r).modelFault = s.modelFault := rfl
@[simp] theorem State.respond_env (r : Response) (s : State) : (s.respond r).env = { s.env with responses := r :: s.env.responses } := rfl

/-! ### `State.drawn` -/

@[simp] theorem State.drawn_cfg (s : State) : (s.drawn).cfg = s.cfg := rfl
@[simp] theorem State.drawn_status (s : State) : (s.drawn).status = s.status := rfl
@[simp] theorem State.drawn_inLen (s : State) : (s.drawn).inLen = s.inLen := rfl
@[simp] theorem State.drawn_outLen (s : State) : (s.drawn).outLen = s.outLen := rfl
@[simp] theorem State.drawn_zcount (s : State) : (s.drawn).zcount = s.zcount := rfl
@[simp] theorem State.drawn_diglen (s : State) : (s.drawn).diglen = s.diglen := rfl
@[simp] theorem State.drawn_errInfo (s : State) : (s.drawn).errInfo = s.errInfo := rfl
@[simp] theorem State.drawn_phase (s : State) : (s.drawn).phase = s.phase := rfl
@[simp] theorem State.drawn_cw (s : State) : (s.drawn).cw = s.cw := rfl
@[simp] theorem State.drawn_dp (s : State) : (s.drawn).dp = s.dp := rfl
@[simp] theorem State.drawn_inWin (s : State) : (s.drawn).inWin = s.inWin := rfl
@[simp] theorem State.drawn_outWin (s : State) : (s.drawn).outWin = s.outWin := rfl
@[simp] theorem State.drawn_modelFault (s : State) : (s.drawn).modelFault = s.modelFault := rfl
@[simp] theorem State.drawn_env (s : State) : (s.drawn).env = { s.env with draws := s.env.draws + 1 } := rfl

/-! ### `State.setProgram` -/

@[simp] theorem State.setProgram_cfg (ops : List HostOp) (s : State) : (s.setProgram ops).cfg = s.cfg := rfl
@[simp] theorem State.setProgram_status (ops : List HostOp) (s : State) : (s.setProgram ops).status = s.status := rfl
@[simp] theorem State.setProgram_inLen (ops : List HostOp) (s : State) : (s.setProgram ops).inLen = s.inLen := rfl
@[simp] theorem State.setProgram_outLen (ops : List HostOp) (s : State) : (s.setProgram ops).outLen = s.outLen := rfl
@[simp] theorem State.setProgram_zcount (ops : List HostOp) (s : State) : (s.setProgram ops).zcount = s.zcount := rfl
@[simp] theorem State.setProgram_diglen (ops : List HostOp) (s : State) : (s.setProgram ops).diglen = s.diglen := rfl
@[simp] theorem State.setProgram_errInfo (ops : List HostOp) (s : State) : (s.setProgram ops).errInfo = s.errInfo := rfl
@[simp] theorem State.setProgram_phase (ops : List HostOp) (s : State) : (s.setProgram ops).phase = s.phase := rfl
@[simp] theorem State.setProgram_cw (ops : List HostOp) (s : State) : (s.setProgram ops).cw = s.cw := rfl
@[simp] theorem State.setProgram_dp (ops : List HostOp) (s : State) : (s.setProgram ops).dp = s.dp := rfl
@[simp] theorem State.setProgram_inWin (ops : List HostOp) (s : State) : (s.setProgram ops).inWin = s.inWin := rfl
@[simp] theorem State.setProgram_outWin (ops : List HostOp) (s : State) : (s.setProgram ops).outWin = s.outWin := rfl
@[simp] theorem State.setProgram_modelFault (ops : List HostOp) (s : State) : (s.setProgram ops).modelFault = s.modelFault := rfl
@[simp] theorem State.setProgram_env (ops : List HostOp) (s : State) : (s.setProgram ops).env = { s.env with program := ops } := rfl

/-! ### `State.setTurns` -/

@[simp] theorem State.setTurns_cfg (ts : List Turn) (s : State) : (s.setTurns ts).cfg = s.cfg := rfl
@[simp] theorem State.setTurns_status (ts : List Turn) (s : State) : (s.setTurns ts).status = s.status := rfl
@[simp] theorem State.setTurns_inLen (ts : List Turn) (s : State) : (s.setTurns ts).inLen = s.inLen := rfl
@[simp] theorem State.setTurns_outLen (ts : List Turn) (s : State) : (s.setTurns ts).outLen = s.outLen := rfl
@[simp] theorem State.setTurns_zcount (ts : List Turn) (s : State) : (s.setTurns ts).zcount = s.zcount := rfl
@[simp] theorem State.setTurns_diglen (ts : List Turn) (s : State) : (s.setTurns ts).diglen = s.diglen := rfl
@[simp] theorem State.setTurns_errInfo (ts : List Turn) (s : State) : (s.setTurns ts).errInfo = s.errInfo := rfl
@[simp] theorem State.setTurns_phase (ts : List Turn) (s : State) : (s.setTurns ts).phase = s.phase := rfl
@[simp] theorem State.setTurns_cw (ts : List Turn) (s : State) : (s.setTurns ts).cw = s.cw := rfl
@[simp] theorem State.setTurns_dp (ts : List Turn) (s : State) : (s.setTurns ts).dp = s.dp := rfl
@[simp] theorem State.setTurns_inWin (ts : List Turn) (s : State) : (s.setTurns ts).inWin = s.inWin := rfl
@[simp] theorem State.setTurns_outWin (ts : List Turn) (s : State) : (s.setTurns ts).outWin = s.outWin := rfl
@[simp] theorem State.setTurns_modelFault (ts : List Turn) (s : State) : (s.setTurns ts).modelFault = s.modelFault := rfl
@[simp] theorem State.setTurns_env (ts : List Turn) (s : State) : (s.setTurns ts).env = { s.env with turns := ts } := rfl

/-! ### `State.recordFault` -/

@[simp] theorem State.recordFault_cfg (f : Fault) (s : State) : (s.recordFault f).cfg = s.cfg := rfl
@[simp] theorem State.recordFault_status (f : Fault) (s : State) : (s.recordFault f).status = s.status := rfl
@[simp] theorem State.recordFault_inLen (f : Fault) (s : State) : (s.recordFault f).inLen = s.inLen := rfl
@[simp] theorem State.recordFault_outLen (f : Fault) (s : State) : (s.recordFault f).outLen = s.outLen := rfl
@[simp] theorem State.recordFault_zcount (f : Fault) (s : State) : (s.recordFault f).zcount = s.zcount := rfl
@[simp] theorem State.recordFault_diglen (f : Fault) (s : State) : (s.recordFault f).diglen = s.diglen := rfl
@[simp] theorem State.recordFault_errInfo (f : Fault) (s : State) : (s.recordFault f).errInfo = s.errInfo := rfl
@[simp] theorem State.recordFault_phase (f : Fault) (s : State) : (s.recordFault f).phase = s.phase := rfl
@[simp] theorem State.recordFault_cw (f : Fault) (s : State) : (s.recordFault f).cw = s.cw := rfl
@[simp] theorem State.recordFault_dp (f : Fault) (s : State) : (s.recordFault f).dp = s.dp := rfl
@[simp] theorem State.recordFault_inWin (f : Fault) (s : State) : (s.recordFault f).inWin = s.inWin := rfl
@[simp] theorem State.recordFault_outWin (f : Fault) (s : State) : (s.recordFault f).outWin = s.outWin := rfl
@[simp] theorem State.recordFault_modelFault (f : Fault) (s : State) : (s.recordFault f).modelFault = s.modelFault.or (some f) := rfl
@[simp] theorem State.recordFault_env (f : Fault) (s : State) : (s.recordFault f).env = s.env := rfl

/-! ### `State.resetBlock` -/

@[simp] theorem State.resetBlock_cfg (s : State) : (s.resetBlock).cfg = s.cfg := rfl
@[simp] theorem State.resetBlock_status (s : State) : (s.resetBlock).status = Status.reset := rfl
@[simp] theorem State.resetBlock_inLen (s : State) : (s.resetBlock).inLen = 0#32 := rfl
@[simp] theorem State.resetBlock_outLen (s : State) : (s.resetBlock).outLen = 0#32 := rfl
@[simp] theorem State.resetBlock_zcount (s : State) : (s.resetBlock).zcount = 0#32 := rfl
@[simp] theorem State.resetBlock_diglen (s : State) : (s.resetBlock).diglen = 0#32 := rfl
@[simp] theorem State.resetBlock_errInfo (s : State) : (s.resetBlock).errInfo = 0#32 := rfl
@[simp] theorem State.resetBlock_phase (s : State) : (s.resetBlock).phase = .idle := rfl
@[simp] theorem State.resetBlock_cw (s : State) : (s.resetBlock).cw = 0#32 := rfl
@[simp] theorem State.resetBlock_dp (s : State) : (s.resetBlock).dp = Datapath.reset := rfl
@[simp] theorem State.resetBlock_inWin (s : State) : (s.resetBlock).inWin = [] := rfl
@[simp] theorem State.resetBlock_outWin (s : State) : (s.resetBlock).outWin = [] := rfl
@[simp] theorem State.resetBlock_modelFault (s : State) : (s.resetBlock).modelFault = s.modelFault := rfl
@[simp] theorem State.resetBlock_env (s : State) : (s.resetBlock).env = s.env := rfl

/-! ### `State.setDatapath` -/

@[simp] theorem State.setDatapath_cfg (d : Datapath) (s : State) : (s.setDatapath d).cfg = s.cfg := rfl
@[simp] theorem State.setDatapath_status (d : Datapath) (s : State) : (s.setDatapath d).status = s.status := rfl
@[simp] theorem State.setDatapath_inLen (d : Datapath) (s : State) : (s.setDatapath d).inLen = s.inLen := rfl
@[simp] theorem State.setDatapath_outLen (d : Datapath) (s : State) : (s.setDatapath d).outLen = s.outLen := rfl
@[simp] theorem State.setDatapath_zcount (d : Datapath) (s : State) : (s.setDatapath d).zcount = s.zcount := rfl
@[simp] theorem State.setDatapath_diglen (d : Datapath) (s : State) : (s.setDatapath d).diglen = s.diglen := rfl
@[simp] theorem State.setDatapath_errInfo (d : Datapath) (s : State) : (s.setDatapath d).errInfo = s.errInfo := rfl
@[simp] theorem State.setDatapath_phase (d : Datapath) (s : State) : (s.setDatapath d).phase = s.phase := rfl
@[simp] theorem State.setDatapath_cw (d : Datapath) (s : State) : (s.setDatapath d).cw = s.cw := rfl
@[simp] theorem State.setDatapath_dp (d : Datapath) (s : State) : (s.setDatapath d).dp = d := rfl
@[simp] theorem State.setDatapath_inWin (d : Datapath) (s : State) : (s.setDatapath d).inWin = s.inWin := rfl
@[simp] theorem State.setDatapath_outWin (d : Datapath) (s : State) : (s.setDatapath d).outWin = s.outWin := rfl
@[simp] theorem State.setDatapath_modelFault (d : Datapath) (s : State) : (s.setDatapath d).modelFault = s.modelFault := rfl
@[simp] theorem State.setDatapath_env (d : Datapath) (s : State) : (s.setDatapath d).env = s.env := rfl

/-! ### `State.emit` -/

@[simp] theorem State.emit_cfg (d : Direction) (z : Nat) (c : Chain) (s : State) : (s.emit d z c).cfg = s.cfg := rfl
@[simp] theorem State.emit_status (d : Direction) (z : Nat) (c : Chain) (s : State) : (s.emit d z c).status = s.status := rfl
@[simp] theorem State.emit_inLen (d : Direction) (z : Nat) (c : Chain) (s : State) : (s.emit d z c).inLen = s.inLen := rfl
@[simp] theorem State.emit_outLen (d : Direction) (z : Nat) (c : Chain) (s : State) : (s.emit d z c).outLen = s.outLen := rfl
@[simp] theorem State.emit_zcount (d : Direction) (z : Nat) (c : Chain) (s : State) : (s.emit d z c).zcount = s.zcount := rfl
@[simp] theorem State.emit_diglen (d : Direction) (z : Nat) (c : Chain) (s : State) : (s.emit d z c).diglen = s.diglen := rfl
@[simp] theorem State.emit_errInfo (d : Direction) (z : Nat) (c : Chain) (s : State) : (s.emit d z c).errInfo = s.errInfo := rfl
@[simp] theorem State.emit_phase (d : Direction) (z : Nat) (c : Chain) (s : State) : (s.emit d z c).phase = s.phase := rfl
@[simp] theorem State.emit_cw (d : Direction) (z : Nat) (c : Chain) (s : State) : (s.emit d z c).cw = s.cw := rfl
@[simp] theorem State.emit_dp (d : Direction) (z : Nat) (c : Chain) (s : State) : (s.emit d z c).dp = s.dp := rfl
@[simp] theorem State.emit_inWin (d : Direction) (z : Nat) (c : Chain) (s : State) : (s.emit d z c).inWin = s.inWin := rfl
@[simp] theorem State.emit_outWin (d : Direction) (z : Nat) (c : Chain) (s : State) : (s.emit d z c).outWin = s.outWin.writeFrom 0 (emitted d z c) := rfl
@[simp] theorem State.emit_modelFault (d : Direction) (z : Nat) (c : Chain) (s : State) : (s.emit d z c).modelFault = s.modelFault := rfl
@[simp] theorem State.emit_env (d : Direction) (z : Nat) (c : Chain) (s : State) : (s.emit d z c).env = s.env := rfl

/-! ### `Status.accepted` -/

@[simp] theorem Status.accepted_busy (v : Word) (st : Status) : (st.accepted v).busy = true := rfl
@[simp] theorem Status.accepted_done (v : Word) (st : Status) : (st.accepted v).done = false := rfl
@[simp] theorem Status.accepted_err (v : Word) (st : Status) : (st.accepted v).err = false := rfl
@[simp] theorem Status.accepted_hzd (v : Word) (st : Status) : (st.accepted v).hzd = st.hzd := rfl
@[simp] theorem Status.accepted_errcode (v : Word) (st : Status) : (st.accepted v).errcode = 0#4 := rfl
@[simp] theorem Status.accepted_lastop (v : Word) (st : Status) : (st.accepted v).lastop = v.extractLsb' 0 4 := rfl

/-! ### `Status.completedOk` -/

@[simp] theorem Status.completedOk_busy (st : Status) : (st.completedOk).busy = false := rfl
@[simp] theorem Status.completedOk_done (st : Status) : (st.completedOk).done = true := rfl
@[simp] theorem Status.completedOk_err (st : Status) : (st.completedOk).err = false := rfl
@[simp] theorem Status.completedOk_hzd (st : Status) : (st.completedOk).hzd = st.hzd := rfl
@[simp] theorem Status.completedOk_errcode (st : Status) : (st.completedOk).errcode = 0#4 := rfl
@[simp] theorem Status.completedOk_lastop (st : Status) : (st.completedOk).lastop = st.lastop := rfl

/-! ### `Status.completedWith` -/

@[simp] theorem Status.completedWith_busy (e : CmdError) (st : Status) : (st.completedWith e).busy = false := rfl
@[simp] theorem Status.completedWith_done (e : CmdError) (st : Status) : (st.completedWith e).done = true := rfl
@[simp] theorem Status.completedWith_err (e : CmdError) (st : Status) : (st.completedWith e).err = true := rfl
@[simp] theorem Status.completedWith_hzd (e : CmdError) (st : Status) : (st.completedWith e).hzd = st.hzd := rfl
@[simp] theorem Status.completedWith_errcode (e : CmdError) (st : Status) : (st.completedWith e).errcode = e.code := rfl
@[simp] theorem Status.completedWith_lastop (e : CmdError) (st : Status) : (st.completedWith e).lastop = st.lastop := rfl

/-! ### `Status.hazard` -/

@[simp] theorem Status.hazard_busy (st : Status) : (st.hazard).busy = st.busy := rfl
@[simp] theorem Status.hazard_done (st : Status) : (st.hazard).done = st.done := rfl
@[simp] theorem Status.hazard_err (st : Status) : (st.hazard).err = st.err := rfl
@[simp] theorem Status.hazard_hzd (st : Status) : (st.hazard).hzd = true := rfl
@[simp] theorem Status.hazard_errcode (st : Status) : (st.hazard).errcode = st.errcode := rfl
@[simp] theorem Status.hazard_lastop (st : Status) : (st.hazard).lastop = st.lastop := rfl

/-! ### `Status.hazardCleared` -/

@[simp] theorem Status.hazardCleared_busy (st : Status) : (st.hazardCleared).busy = st.busy := rfl
@[simp] theorem Status.hazardCleared_done (st : Status) : (st.hazardCleared).done = st.done := rfl
@[simp] theorem Status.hazardCleared_err (st : Status) : (st.hazardCleared).err = st.err := rfl
@[simp] theorem Status.hazardCleared_hzd (st : Status) : (st.hazardCleared).hzd = false := rfl
@[simp] theorem Status.hazardCleared_errcode (st : Status) : (st.hazardCleared).errcode = st.errcode := rfl
@[simp] theorem Status.hazardCleared_lastop (st : Status) : (st.hazardCleared).lastop = st.lastop := rfl

end Sys2Proof.Machine
end

