-- ==== Sys2Proof/Laws/Bus.lean ====
section
/-! SUPPORT. Laws/Bus.lean: what a host transaction can do, said once (20_memory.md R55, R56). -/

namespace Sys2Proof.Machine

/-- Alignment as a rule on the address (20_memory.md R58, R59). -/
theorem aligned_iff (a : Addr) (n : Nat) : aligned a n = true ↔ (n = 4 → a.toNat % 4 = 0) := by
  simp only [aligned, Bool.or_eq_true, bne_iff_ne, beq_iff_eq]
  tauto

theorem regionOf_page {a : Addr} (h : a.toNat < 0x01000) : regionOf a = .registerPage := by
  simp [regionOf, h]

theorem regionOf_input {a : Addr} (h : 0x10000 ≤ a.toNat) (h' : a.toNat < 0x20000) : regionOf a = .inputWindow := by
  rw [regionOf, if_neg (by omega), if_pos ⟨h, h'⟩]

theorem regionOf_output {a : Addr} (h : 0x20000 ≤ a.toNat) (h' : a.toNat < 0x30000) : regionOf a = .outputWindow := by
  rw [regionOf, if_neg (by omega), if_neg (by omega), if_pos ⟨h, h'⟩]

theorem regionOf_unmapped {a : Addr} (h : (0x01000 ≤ a.toNat ∧ a.toNat < 0x10000) ∨ 0x30000 ≤ a.toNat) :
    regionOf a = .unmapped := by
  rw [regionOf, if_neg (by omega), if_neg (by omega), if_neg (by omega)]

/-- Every address lies in one region, with the range that says so (20_memory.md R51). -/
theorem region_cases (a : Addr) :
    (a.toNat < 0x01000 ∧ regionOf a = .registerPage) ∨
    (0x10000 ≤ a.toNat ∧ a.toNat < 0x20000 ∧ regionOf a = .inputWindow) ∨
    (0x20000 ≤ a.toNat ∧ a.toNat < 0x30000 ∧ regionOf a = .outputWindow) ∨
    (((0x01000 ≤ a.toNat ∧ a.toNat < 0x10000) ∨ 0x30000 ≤ a.toNat) ∧ regionOf a = .unmapped) := by
  by_cases h1 : a.toNat < 0x01000
  · exact .inl ⟨h1, regionOf_page h1⟩
  by_cases h2 : 0x10000 ≤ a.toNat ∧ a.toNat < 0x20000
  · exact .inr (.inl ⟨h2.1, h2.2, regionOf_input h2.1 h2.2⟩)
  by_cases h3 : 0x20000 ≤ a.toNat ∧ a.toNat < 0x30000
  · exact .inr (.inr (.inl ⟨h3.1, h3.2, regionOf_output h3.1 h3.2⟩))
  have h4 : (0x01000 ≤ a.toNat ∧ a.toNat < 0x10000) ∨ 0x30000 ≤ a.toNat := by omega
  exact .inr (.inr (.inr ⟨h4, regionOf_unmapped h4⟩))

/-- Which register a word-aligned offset names (10_state.md R21); every other offset is reserved. -/
theorem atOffset_none {off : Nat} (h : 0x0002C ≤ off) : Reg.atOffset off = none := by
  rw [Reg.atOffset, List.find?_eq_none]
  intro r hr
  cases r <;> simp [Reg.offset] <;> omega

/-! ### Byte lanes (20_memory.md R60) -/

theorem lanesToNat_lt (bs : List Byte) : lanesToNat bs < 256 ^ bs.length := by
  induction bs with
  | nil => simp [lanesToNat]
  | cons b bs ih =>
    have := b.isLt
    simp only [lanesToNat, List.length_cons, pow_succ]
    omega

theorem lanesToNat_eq_sum (bs : List Byte) :
    lanesToNat bs = ∑ k ∈ Finset.range bs.length, (bs.getD k 0#8).toNat * 256 ^ k := by
  induction bs with
  | nil => rfl
  | cons b bs ih =>
    rw [lanesToNat, ih, List.length_cons, Finset.sum_range_succ', Finset.mul_sum, add_comm]
    simp only [List.getD_cons_succ, List.getD_cons_zero, pow_zero, mul_one, Nat.add_right_cancel_iff]
    exact Finset.sum_congr rfl fun k _ => by ring

/-- Byte lanes of a word, lane 0 first. -/
theorem lanesOf_get (v : Word) (n k : Nat) :
    (lanesOf v n)[k]? = if k < n then some (v.extractLsb' (8 * k) 8) else none := by
  unfold lanesOf
  by_cases h : k < n <;> simp [h]

/-! ### Window accesses within the capacity -/

theorem memRead_input {a : Addr} {n : Nat} {s : State} (h : 0x10000 ≤ a.toNat) (h' : a.toNat < 0x20000) (hn : n ≠ 2)
    (hal : n = 4 → a.toNat % 4 = 0) (hcap : a.toNat - 0x10000 + n ≤ s.cfg.inCap) :
    memRead a n s = readWindow s.inWin (a.toNat - 0x10000) n := by
  rw [memRead, if_neg hn, regionOf_input h h']
  exact if_pos ⟨(aligned_iff a n).2 hal, hcap⟩

theorem memRead_output {a : Addr} {n : Nat} {s : State} (h : 0x20000 ≤ a.toNat) (h' : a.toNat < 0x30000) (hn : n ≠ 2)
    (hal : n = 4 → a.toNat % 4 = 0) (hcap : a.toNat - 0x20000 + n ≤ s.cfg.outCap) :
    memRead a n s =
      if s.status.busy then .unspecified n else readWindow s.outWin (a.toNat - 0x20000) n := by
  rw [memRead, if_neg hn, regionOf_output h h']
  exact if_pos ⟨(aligned_iff a n).2 hal, hcap⟩

theorem memWrite_input {a : Addr} {n : Nat} {v : Word} {s : State} (h : 0x10000 ≤ a.toNat) (h' : a.toNat < 0x20000)
    (hn : n ≠ 2) (hal : n = 4 → a.toNat % 4 = 0) (hcap : a.toNat - 0x10000 + n ≤ s.cfg.inCap) :
    memWrite a n v s = (.okay, writeInput (a.toNat - 0x10000) n v s) := by
  rw [memWrite, if_neg hn, regionOf_input h h']
  exact if_pos ⟨(aligned_iff a n).2 hal, hcap⟩

/-! ### What a transaction can do -/

/-- The effects a bus write can have: none (ERROR, or a read-only or reserved register), a discarded write, an accepted command,
IN_LEN, or cells of the input window within its capacity. -/
theorem memWrite_cases (a : Addr) (n : Nat) (v : Word) (s : State) :
    (memWrite a n v s).2 = s ∨
    (s.status.busy = true ∧ memWrite a n v s = (.okay, s.discardWrite)) ∨
    (s.status.busy = false ∧ memWrite a n v s = (.okay, s.accept v)) ∨
    (s.status.busy = false ∧ memWrite a n v s = (.okay, { s with inLen := v })) ∨
    (s.status.busy = false ∧ ∃ i, i + n ≤ s.cfg.inCap ∧
      memWrite a n v s = (.okay, { s with inWin := s.inWin.writeFrom i (lanesOf v n) })) := by
  unfold memWrite
  by_cases h2 : n = 2
  · rw [if_pos h2]; exact .inl rfl
  rw [if_neg h2]
  cases hreg : regionOf a with
  | registerPage =>
    by_cases hal : n = 4 ∧ aligned a n = true
    · simp only [if_pos hal]
      unfold writePage
      cases hr : Reg.atOffset a.toNat with
      | none => exact .inl rfl
      | some r => cases hb : s.status.busy <;> cases r <;> simp
    · rw [if_neg hal]; exact .inl rfl
  | inputWindow =>
    by_cases hal : aligned a n = true ∧ a.toNat - 0x10000 + n ≤ s.cfg.inCap
    · simp only [if_pos hal]
      unfold writeInput
      cases hb : s.status.busy
      · exact .inr (.inr (.inr (.inr ⟨rfl, _, hal.2, by simp⟩)))
      · simp
    · rw [if_neg hal]; exact .inl rfl
  | outputWindow => exact .inl rfl
  | unmapped => exact .inl rfl

/-- A write that gets ERROR changes nothing (20_memory.md R63). -/
theorem memWrite_error {a : Addr} {n : Nat} {v : Word} {s : State} (h : (memWrite a n v s).1 = .error) :
    (memWrite a n v s).2 = s := by
  unfold memWrite at h ⊢
  by_cases h2 : n = 2
  · rw [if_pos h2]
  rw [if_neg h2] at h ⊢
  cases hreg : regionOf a with
  | registerPage =>
    rw [hreg] at h
    by_cases hal : n = 4 ∧ aligned a n = true
    · simp [if_pos hal] at h
    · simp only [if_neg hal]
  | inputWindow =>
    rw [hreg] at h
    by_cases hal : aligned a n = true ∧ a.toNat - 0x10000 + n ≤ s.cfg.inCap
    · simp [if_pos hal] at h
    · simp only [if_neg hal]
  | outputWindow => rfl
  | unmapped => rfl

/-- A host read changes nothing of the block: only the port's responses and the count of free values. -/
theorem hostRead_next {a : Addr} {n : Nat} {s t : State} (h : hostRead a n s = .next t) :
    (∃ r d, memRead a n s = .value r d ∧ t = s.respond (.read r d)) ∨
    (∃ k, memRead a n s = .unspecified k ∧ t = (s.respond (.read .okay (drawnValue k s))).drawn) := by
  unfold hostRead at h
  split at h
  · rename_i r d hm
    exact .inl ⟨r, d, hm, by simpa using h.symm⟩
  · rename_i k hm
    exact .inr ⟨k, hm, by simpa using h.symm⟩
  · simp at h

/-- What one statement of a host program can do when it goes on. -/
theorem hostOp_next {op : HostOp} {s t : State} (h : hostOp op s = .next t) :
    (∃ env, t = { s with env := env }) ∨
    (∃ a n v, op = .write a n v ∧ t = (memWrite a n v s).2.respond (.write (memWrite a n v s).1)) := by
  unfold hostOp at h
  split_ifs at h
  cases op with
  | read a n =>
    rcases hostRead_next h with ⟨r, d, -, rfl⟩ | ⟨k, -, rfl⟩
    · exact .inl ⟨_, rfl⟩
    · exact .inl ⟨_, rfl⟩
  | write a n v => exact .inr ⟨a, n, v, rfl, by simpa [hostWrite] using h.symm⟩
  | poll =>
    simp only [hostPoll] at h
    rcases hostRead_next h with ⟨r, d, -, rfl⟩ | ⟨k, -, rfl⟩
    · left; split_ifs <;> exact ⟨_, rfl⟩
    · left; split_ifs <;> exact ⟨_, rfl⟩

/-- What the host's turn can do when it goes on. -/
theorem hostTurn_next {s t : State} (h : hostTurn s = .next t) :
    (∃ env, t = { s with env := env }) ∨
    (∃ a n v rest, s.env.program = .write a n v :: rest ∧
      t = (memWrite a n v (s.setProgram rest)).2.respond (.write (memWrite a n v (s.setProgram rest)).1)) := by
  unfold hostTurn at h
  split at h
  · left; exact ⟨s.env, by simpa using h.symm⟩
  · rename_i op rest hp
    rcases hostOp_next h with ⟨env, rfl⟩ | ⟨a, n, v, rfl, rfl⟩
    · exact .inl ⟨env, rfl⟩
    · exact .inr ⟨a, n, v, rest, hp, rfl⟩

end Sys2Proof.Machine
end

