-- ==== Sys2Proof/Laws/Fold.lean ====
section
/-! SUPPORT. Laws/Fold.lean: what the loop of `Fold` does to the work buffer (40_limb_reduction.md R104): one lemma about the
loop, one about a whole fold. -/

namespace Sys2Proof.Machine

@[simp] theorem valueR_nil (r : Nat) : valueR r [] = 0 := rfl

/-- 00_scope.md R12: `value_R(d ++ [x]) = value_R(d) * R + x`. -/
@[simp] theorem valueR_append_singleton (r : Nat) (ds : List Nat) (x : Nat) :
    valueR r (ds ++ [x]) = valueR r ds * r + x := by
  simp [valueR]

/-- A digit sequence is below the power of its length. -/
theorem valueR_lt {r : Nat} {ds : List Nat} (h : ∀ x ∈ ds, x < r) : valueR r ds < r ^ ds.length := by
  induction ds using List.reverseRecOn with
  | nil => simp
  | append_singleton ds x ih =>
    have h1 := ih fun y hy => h y (by simp [hy])
    have h2 : x < r := h x (by simp)
    simp only [valueR_append_singleton, List.length_append, List.length_cons, List.length_nil, pow_succ]
    nlinarith

theorem valueR_replicate_zero (r k : Nat) : valueR r (List.replicate k 0) = 0 := by
  induction k with
  | zero => rfl
  | succ k ih => rw [List.replicate_succ', valueR_append_singleton, ih]; simp

theorem valueR_eq_zero_of_all_zero {r : Nat} {ds : List Nat} (h : ∀ x ∈ ds, x = 0) : valueR r ds = 0 := by
  rw [List.eq_replicate_of_mem h, valueR_replicate_zero]

/-- The digits of the first `p` positions. -/
theorem take_succ_getD (ws : List Nat) (p : Nat) (h : p < ws.length) :
    ws.take (p + 1) = ws.take p ++ [ws.getD p 0] := by
  rw [List.take_add_one, List.getElem?_eq_getElem h, List.getD_eq_getElem _ _ h]
  rfl

/-- What the loop of `Fold` does when it still has the positions below `p` before it. `hz`: the positions no earlier fold of
this command used hold 0; `hl`: the positions still to cover are among those below `p`. -/
theorem foldLoop_spec {rIn rOut : Nat} (hr : 0 < rOut) : ∀ (p : Nat) (c : Chain), p ≤ c.work.length →
    (hl : c.length - c.i ≤ p) →
    (hz : ∀ k, k + (c.length - c.i) < p → c.work.getD k 0 = 0) →
    (foldLoop rIn rOut p c).work.length = c.work.length ∧
    (foldLoop rIn rOut p c).length = c.length ∧
    (∀ k, p ≤ k → (foldLoop rIn rOut p c).work.getD k 0 = c.work.getD k 0) ∧
    valueR rOut ((foldLoop rIn rOut p c).work.take p) + (foldLoop rIn rOut p c).carry * rOut ^ p
      = rIn * valueR rOut (c.work.take p) + c.carry ∧
    ((∀ k, k < p → c.work.getD k 0 < rOut) → ∀ k, k < p → (foldLoop rIn rOut p c).work.getD k 0 < rOut) ∧
    c.i ≤ (foldLoop rIn rOut p c).i ∧ (foldLoop rIn rOut p c).i ≤ c.i + p ∧
    c.length ≤ max c.i (foldLoop rIn rOut p c).i ∧
    (∀ k, k + ((foldLoop rIn rOut p c).i - c.i) < p → (foldLoop rIn rOut p c).work.getD k 0 = 0) := by
  intro p
  induction p with
  | zero =>
    intro c hp hl hz
    simp [foldLoop]
    omega
  | succ p ih =>
    intro c hp hl hz
    simp only [foldLoop]
    split_ifs with hc
    · set d := c.work.getD p 0 with hd
      set t := limbIntermediate rIn d c.carry with ht
      set c1 : Chain :=
        { c with
          work := c.work.set p (limbStep rIn rOut d c.carry).1
          carry := (limbStep rIn rOut d c.carry).2
          t := t
          i := c.i + 1
          p := (p : Int) - 1 } with hc1
      have hlt : p < c.work.length := hp
      have getD_other : ∀ k, k ≠ p → c1.work.getD k 0 = c.work.getD k 0 := by
        intro k hk
        simp [hc1, List.getD_eq_getElem?_getD, List.getElem?_set_ne (Ne.symm hk)]
      have getD_same : c1.work.getD p 0 = t % rOut := by
        simp [hc1, hlt, limbStep, ht]
      have len1 : c1.work.length = c.work.length := by simp [hc1]
      have take1 : c1.work.take p = c.work.take p := by
        simp [hc1, List.take_set, List.set_eq_of_length_le]
      have carry1 : c1.carry = t / rOut := rfl
      have i1 : c1.i = c.i + 1 := rfl
      have l1 : c1.length = c.length := rfl
      obtain ⟨a1, a2, a3, a4, a5, a6, a7, a8, a9⟩ := ih c1 (by omega) (by omega) (by
        intro k hk
        rw [getD_other k (by omega)]
        exact hz k (by omega))
      set c2 := foldLoop rIn rOut p c1
      refine ⟨by omega, by omega, ?_, ?_, ?_, by omega, by omega, by omega, ?_⟩
      · intro k hk
        rw [a3 k (by omega), getD_other k (by omega)]
      · rw [take_succ_getD _ _ (by omega), take_succ_getD _ _ (by omega), valueR_append_singleton,
          valueR_append_singleton, a3 p le_rfl, getD_same, pow_succ]
        rw [take1, carry1] at a4
        have key : t = rOut * (t / rOut) + t % rOut := (Nat.div_add_mod t rOut).symm
        have ht' : t = rIn * d + c.carry := rfl
        rw [← hd]
        nlinarith [a4, key, ht', congrArg (· * rOut) a4]
      · intro hdig k hk
        rcases Nat.lt_succ_iff_lt_or_eq.1 hk with hk | rfl
        · refine a5 ?_ k hk
          intro j hj
          rw [getD_other j (by omega)]
          exact hdig j (by omega)
        · rw [a3 k le_rfl, getD_same]
          exact Nat.mod_lt _ hr
      · intro k hk
        exact a9 k (by omega)
    · push Not at hc
      obtain ⟨hc0, hci⟩ := hc
      have zeros : ∀ k, k < p + 1 → c.work.getD k 0 = 0 := fun k hk => hz k (by omega)
      have hv : valueR rOut (c.work.take (p + 1)) = 0 := by
        refine valueR_eq_zero_of_all_zero ?_
        intro x hx
        obtain ⟨k, hk, rfl⟩ := List.getElem_of_mem hx
        simp only [List.length_take, lt_min_iff] at hk
        have := zeros k hk.1
        rw [List.getD_eq_getElem _ _ hk.2] at this
        simpa using this
      refine ⟨rfl, rfl, fun _ _ => rfl, ?_, fun h => h, le_rfl, by omega, by omega, ?_⟩
      · simp [hv, hc0]
      · intro k hk
        exact zeros k (by omega)

/-- The loop never uncounts a position. -/
theorem le_foldLoop_i (rIn rOut : Nat) : ∀ (p : Nat) (c : Chain), c.i ≤ (foldLoop rIn rOut p c).i := by
  intro p
  induction p with
  | zero => intro c; exact le_rfl
  | succ p ih =>
    intro c
    simp only [foldLoop]
    split_ifs
    · refine le_trans (Nat.le_succ c.i) ?_
      exact ih { c with
        work := c.work.set p (limbStep rIn rOut (c.work.getD p 0) c.carry).1
        carry := (limbStep rIn rOut (c.work.getD p 0) c.carry).2
        t := limbIntermediate rIn (c.work.getD p 0) c.carry
        i := c.i + 1
        p := (p : Int) - 1 }
    · exact le_rfl

/-- A loop that counts no position changes nothing, because it is at the left end or its condition fails. -/
theorem foldLoop_idle {rIn rOut p : Nat} {c : Chain} (h : (foldLoop rIn rOut p c).i ≤ c.i) :
    foldLoop rIn rOut p c = c ∧ (p = 0 ∨ (c.carry = 0 ∧ c.length ≤ c.i)) := by
  cases p with
  | zero => exact ⟨rfl, .inl rfl⟩
  | succ p =>
    simp only [foldLoop] at h ⊢
    split_ifs at h ⊢ with hc
    · exact absurd (le_trans (le_foldLoop_i rIn rOut p _) h) (Nat.not_succ_le_self c.i)
    · push Not at hc
      exact ⟨rfl, .inr hc⟩

/-- The highest position the loop used holds a non-zero digit, once the carry is exhausted: either a carry came in there, or a
non-zero digit stood there before (40_limb_reduction.md R110). -/
theorem foldLoop_top_ne_zero {rIn rOut : Nat} (hr : 0 < rOut) (hIn : 0 < rIn) : ∀ (p : Nat) (c : Chain), p ≤ c.work.length →
    c.length - c.i ≤ p →
    (c.i < c.length → c.work.getD (p - (c.length - c.i)) 0 ≠ 0) →
    (foldLoop rIn rOut p c).carry = 0 → c.i < (foldLoop rIn rOut p c).i →
    (foldLoop rIn rOut p c).work.getD (p - ((foldLoop rIn rOut p c).i - c.i)) 0 ≠ 0 := by
  intro p
  induction p with
  | zero => intro c _ _ _ _ h; simp [foldLoop] at h
  | succ p ih =>
    intro c hp hl htop hcarry hi
    simp only [foldLoop] at hcarry hi ⊢
    split_ifs at hcarry hi ⊢ with hc
    · set d := c.work.getD p 0 with hd
      set t := limbIntermediate rIn d c.carry with ht
      set c1 : Chain :=
        { c with
          work := c.work.set p (limbStep rIn rOut d c.carry).1
          carry := (limbStep rIn rOut d c.carry).2
          t := t
          i := c.i + 1
          p := (p : Int) - 1 } with hc1
      have hlt : p < c.work.length := hp
      have getD_other : ∀ k, k ≠ p → c1.work.getD k 0 = c.work.getD k 0 := by
        intro k hk
        simp [hc1, List.getD_eq_getElem?_getD, List.getElem?_set_ne (Ne.symm hk)]
      have getD_same : c1.work.getD p 0 = t % rOut := by
        simp [hc1, hlt, limbStep, ht]
      have len1 : c1.work.length = c.work.length := by simp [hc1]
      have i1 : c1.i = c.i + 1 := rfl
      have l1 : c1.length = c.length := rfl
      have carry1 : c1.carry = t / rOut := rfl
      by_cases hmore : c1.i < (foldLoop rIn rOut p c1).i
      · have := ih c1 (by omega) (by omega) (by
          intro h
          rw [getD_other _ (by omega)]
          have := htop (by omega)
          rwa [show p + 1 - (c.length - c.i) = p - (c1.length - c1.i) by omega] at this) hcarry hmore
        rwa [show p + 1 - ((foldLoop rIn rOut p c1).i - c.i) = p - ((foldLoop rIn rOut p c1).i - c1.i) by omega]
      · obtain ⟨stop, why⟩ := foldLoop_idle (not_lt.1 hmore)
        rw [stop] at hcarry ⊢
        rw [carry1] at hcarry
        rw [show p + 1 - (c1.i - c.i) = p by omega, getD_same,
          Nat.mod_eq_of_lt ((Nat.div_eq_zero_iff_lt hr).1 hcarry), ht]
        simp only [limbIntermediate]
        by_cases hcar : c.carry = 0
        · have hlen : c.i < c.length := hc.resolve_left (not_not.2 hcar)
          have htop := htop hlen
          rw [show p + 1 - (c.length - c.i) = p by omega, ← hd] at htop
          have : 0 < rIn * d := Nat.mul_pos hIn (Nat.pos_of_ne_zero htop)
          omega
        · omega
    · omega

/-- The work buffer between two folds (40_limb_reduction.md R110): `size` digits below the radix, the high-water mark within it,
only zeros above the mark and a non-zero digit at it. -/
structure Chain.Settled (rOut size : Nat) (c : Chain) : Prop where
  workLength : c.work.length = size
  digits : ∀ k, k < size → c.work.getD k 0 < rOut
  lengthLe : c.length ≤ size
  zeros : ∀ k, k + c.length < size → c.work.getD k 0 = 0
  top : 0 < c.length → c.work.getD (size - c.length) 0 ≠ 0

theorem Chain.cleared_settled {rOut : Nat} (hr : 0 < rOut) (size : Nat) : (Chain.cleared size).Settled rOut size where
  workLength := by simp [Chain.cleared]
  digits := by intro k hk; simpa [Chain.cleared, hk] using hr
  lengthLe := by simp [Chain.cleared]
  zeros := by
    intro k hk
    have hk : k < size := by simpa [Chain.cleared] using hk
    simp [Chain.cleared, hk]
  top := by simp [Chain.cleared]

/-- One whole fold (40_limb_reduction.md R104): "multiply existing buffer by R_in, add the digit", what does not fit left in the
carry; and with no carry left and the new mark taken, the buffer is settled again. -/
theorem pushDigit_spec {rIn rOut size : Nat} (hr : 0 < rOut) (hIn : 0 < rIn) {c : Chain} (h : c.Settled rOut size) (v : Nat) :
    valueR rOut (pushDigit rIn rOut v c).work + (pushDigit rIn rOut v c).carry * rOut ^ size
      = valueR rOut c.work * rIn + v ∧
    c.length ≤ (pushDigit rIn rOut v c).i ∧
    ((pushDigit rIn rOut v c).carry = 0 →
      ({ pushDigit rIn rOut v c with length := (pushDigit rIn rOut v c).i } : Chain).Settled rOut size) := by
  obtain ⟨hw, hd, hl, hz, ht⟩ := h
  set c0 : Chain := { c with carry := v, i := 0, p := (c.work.length : Int) - 1 } with hc0
  have w0 : c0.work = c.work := rfl
  have l0 : c0.length = c.length := rfl
  have i0 : c0.i = 0 := rfl
  have e : pushDigit rIn rOut v c = foldLoop rIn rOut size c0 := by rw [← hw]; rfl
  obtain ⟨a1, a2, -, a4, a5, -, a7, a8, a9⟩ := foldLoop_spec (rIn := rIn) hr size c0 (by rw [w0]; omega) (by omega)
    (by intro k hk; exact hz k (by omega))
  have top := foldLoop_top_ne_zero hr hIn size c0 (by rw [w0]; omega) (by omega)
    (by intro hpos; simpa [l0, i0] using ht (by omega))
  rw [e]
  set c2 := foldLoop rIn rOut size c0
  refine ⟨?_, by omega, ?_⟩
  · rw [List.take_of_length_le (by rw [a1, w0, hw]), List.take_of_length_le (by rw [w0]; omega)] at a4
    rw [a4, w0]
    ring_nf
    rfl
  · intro hcarry
    refine ⟨by simp [a1, w0, hw], fun k hk => a5 hd k hk, by simpa [i0] using a7, ?_, ?_⟩
    · intro k hk
      exact a9 k (by simpa [i0] using hk)
    · intro hpos
      have := top hcarry (by simpa [i0] using hpos)
      simpa [i0] using this

end Sys2Proof.Machine
end

