-- ==== Sys2Proof/Laws/Memory.lean ====
section
/-! SUPPORT. Laws/Memory.lean: what the window-memory operations do: read after write, the frame, and that each keeps the
canonical form `Memory.wf`. -/

namespace Sys2Proof.Machine.Memory

@[simp] theorem get_nil (k : Nat) : Memory.get [] k = none := rfl

theorem get_cons (c : Host.Cell) (m : Memory) (k : Nat) :
    Memory.get (c :: m) k = if k = c.1 then some c.2 else Memory.get m k := rfl

/-- Read after write, at the written cell and elsewhere. -/
theorem get_set (m : Memory) (k : Nat) (v : Byte) (j : Nat) :
    (m.set k v).get j = if j = k then some v else m.get j := by
  induction m with
  | nil => simp [Memory.set, get_cons]
  | cons c m ih =>
    obtain ⟨a, b⟩ := c
    simp only [Memory.set]
    split_ifs with h1 h2 h3 h3 h3 <;> simp_all [get_cons]

@[simp] theorem get_set_same (m : Memory) (k : Nat) (v : Byte) : (m.set k v).get k = some v := by
  simp [get_set]

theorem get_set_other (m : Memory) {k j : Nat} (v : Byte) (h : j ≠ k) : (m.set k v).get j = m.get j := by
  simp [get_set, h]

/-- Every key of a memory after a write is the written one or was there before. -/
theorem mem_set {m : Memory} {k : Nat} {v : Byte} {c : Host.Cell} (h : c ∈ m.set k v) : c = (k, v) ∨ c ∈ m := by
  induction m with
  | nil => simpa [Memory.set] using h
  | cons d m ih =>
    obtain ⟨a, b⟩ := d
    simp only [Memory.set] at h
    split_ifs at h <;> simp at h ⊢ <;> grind

/-- A write keeps the canonical form. -/
theorem set_wf {m : Memory} (h : m.wf) (k : Nat) (v : Byte) : (m.set k v).wf := by
  induction m with
  | nil => simp [Memory.set, Memory.wf]
  | cons d m ih =>
    obtain ⟨a, b⟩ := d
    obtain ⟨hd, hm⟩ := List.pairwise_cons.1 h
    simp only [Memory.set]
    split_ifs with h1 h2
    · refine List.pairwise_cons.2 ⟨?_, h⟩
      intro c hc
      rcases List.mem_cons.1 hc with rfl | hc
      · exact h1
      · exact lt_trans h1 (hd c hc)
    · subst h2
      exact List.pairwise_cons.2 ⟨hd, hm⟩
    · refine List.pairwise_cons.2 ⟨?_, ih hm⟩
      intro c hc
      rcases mem_set hc with rfl | hc
      · show a < k
        omega
      · exact hd c hc

theorem writeFrom_wf {m : Memory} (h : m.wf) (k : Nat) (bs : List Byte) : (m.writeFrom k bs).wf := by
  induction bs generalizing m k with
  | nil => exact h
  | cons b bs ih => exact ih (set_wf h k b) (k + 1)

/-- The keys after a write of several cells. -/
theorem mem_writeFrom {m : Memory} {k : Nat} {bs : List Byte} {c : Host.Cell} (h : c ∈ m.writeFrom k bs) :
    (k ≤ c.1 ∧ c.1 < k + bs.length) ∨ c ∈ m := by
  induction bs generalizing m k with
  | nil => exact .inr h
  | cons b bs ih =>
    rcases ih h with h | h
    · left; simp only [List.length_cons]; omega
    · rcases mem_set h with rfl | h
      · left; simp
      · exact .inr h

/-- What a write of several cells leaves in every cell. -/
theorem get_writeFrom (m : Memory) (k : Nat) (bs : List Byte) (j : Nat) :
    (m.writeFrom k bs).get j = if k ≤ j ∧ j < k + bs.length then bs[j - k]? else m.get j := by
  induction bs generalizing m k with
  | nil =>
    have : ¬ (k ≤ j ∧ j < k + 0) := by omega
    simp [Memory.writeFrom]
  | cons b bs ih =>
    simp only [Memory.writeFrom, ih, get_set, List.length_cons]
    by_cases h : j = k
    · subst h; simp
    · by_cases h2 : k + 1 ≤ j ∧ j < k + 1 + bs.length
      · rw [if_pos h2, if_pos (by omega)]
        obtain ⟨i, rfl⟩ : ∃ i, j = k + 1 + i := ⟨j - (k + 1), by omega⟩
        have e1 : k + 1 + i - (k + 1) = i := by omega
        have e2 : k + 1 + i - k = i + 1 := by omega
        rw [e1, e2, List.getElem?_cons_succ]
      · rw [if_neg h2, if_neg h, if_neg (by omega)]

/-- A read of several cells answers exactly when each has been written, and answers them in order. -/
theorem readFrom_eq_some {m : Memory} {k n : Nat} {bs : List Byte} :
    m.readFrom k n = some bs ↔ bs.length = n ∧ ∀ j, j < n → m.get (k + j) = bs[j]? := by
  induction n generalizing k bs with
  | zero =>
    cases bs <;> simp [Memory.readFrom]
  | succ n ih =>
    simp only [Memory.readFrom]
    constructor
    · intro h
      split at h
      · rename_i b cs hb hcs
        obtain rfl : b :: cs = bs := by simpa using h
        obtain ⟨hl, hg⟩ := ih.1 hcs
        refine ⟨by simp [hl], ?_⟩
        intro j hj
        cases j with
        | zero => simpa using hb
        | succ j =>
          have := hg j (by omega)
          simpa [Nat.add_assoc, Nat.add_comm 1 j] using this
      · simp at h
    · rintro ⟨hl, hg⟩
      cases bs with
      | nil => simp at hl
      | cons b cs =>
        have h0 : m.get k = some b := by simpa using hg 0 (by omega)
        have h1 : m.readFrom (k + 1) n = some cs := by
          refine ih.2 ⟨by simpa using hl, ?_⟩
          intro j hj
          have := hg (j + 1) (by omega)
          simpa [Nat.add_assoc, Nat.add_comm 1 j] using this
        simp [h0, h1]

/-- A read of several cells answers nothing exactly when one of them has not been written. -/
theorem readFrom_eq_none {m : Memory} {k n : Nat} :
    m.readFrom k n = none ↔ ∃ j, j < n ∧ m.get (k + j) = none := by
  induction n generalizing k with
  | zero => simp [Memory.readFrom]
  | succ n ih =>
    simp only [Memory.readFrom]
    constructor
    · intro h
      split at h
      · simp at h
      · rename_i hno
        by_cases h0 : m.get k = none
        · exact ⟨0, by omega, by simpa using h0⟩
        · obtain ⟨b, hb⟩ := Option.ne_none_iff_exists'.1 h0
          have h1 : m.readFrom (k + 1) n = none := by
            by_contra h1
            obtain ⟨cs, hcs⟩ := Option.ne_none_iff_exists'.1 h1
            exact hno b cs hb hcs
          obtain ⟨j, hj, hg⟩ := ih.1 h1
          exact ⟨j + 1, by omega, by simpa [Nat.add_assoc, Nat.add_comm 1 j] using hg⟩
    · rintro ⟨j, hj, hg⟩
      split
      · rename_i b cs hb hcs
        exfalso
        cases j with
        | zero => simp [hb] at hg
        | succ j =>
          have : m.readFrom (k + 1) n = none :=
            ih.2 ⟨j, by omega, by simpa [Nat.add_assoc, Nat.add_comm 1 j] using hg⟩
          simp [this] at hcs
      · rfl

/-- Reading back what was written. -/
theorem readFrom_writeFrom_same (m : Memory) (k : Nat) (bs : List Byte) :
    (m.writeFrom k bs).readFrom k bs.length = some bs := by
  refine readFrom_eq_some.2 ⟨rfl, ?_⟩
  intro j hj
  rw [get_writeFrom, if_pos (by omega)]
  congr 1
  omega

/-- In canonical form equal cells mean equal memories. -/
theorem ext_of_wf {m m' : Memory} (h : m.wf) (h' : m'.wf) (e : ∀ k, m.get k = m'.get k) : m = m' := by
  have low : ∀ {m : Memory} {a : Nat}, (∀ c ∈ m, a < c.1) → Memory.get m a = none := by
    intro m a hm
    induction m with
    | nil => rfl
    | cons c m ih =>
      have := hm c (by simp)
      rw [get_cons, if_neg (by omega)]
      exact ih fun c hc => hm c (by simp [hc])
  induction m generalizing m' with
  | nil =>
    cases m' with
    | nil => rfl
    | cons c m' =>
      have := e c.1
      simp [get_cons] at this
  | cons c m ih =>
    obtain ⟨hc, hm⟩ := List.pairwise_cons.1 h
    cases m' with
    | nil =>
      have := e c.1
      simp [get_cons] at this
    | cons d m' =>
      obtain ⟨hd, hm'⟩ := List.pairwise_cons.1 h'
      have key : c.1 = d.1 := by
        rcases lt_trichotomy c.1 d.1 with hlt | heq | hgt
        · have hn : Memory.get (d :: m') c.1 = none := low (by
            intro x hx
            rcases List.mem_cons.1 hx with rfl | hx
            · exact hlt
            · exact hlt.trans (hd x hx))
          have := e c.1
          rw [hn] at this
          simp [get_cons] at this
        · exact heq
        · have hn : Memory.get (c :: m) d.1 = none := low (by
            intro x hx
            rcases List.mem_cons.1 hx with rfl | hx
            · exact hgt
            · exact hgt.trans (hc x hx))
          have := e d.1
          rw [hn] at this
          simp [get_cons] at this
      have val : c.2 = d.2 := by
        have := e c.1
        simpa [get_cons, key] using this
      have tail : m = m' := by
        refine ih hm hm' ?_
        intro k
        by_cases hk : k = c.1
        · rw [hk, low hc, key, low hd]
        · have := e k
          rw [get_cons, get_cons, if_neg hk, if_neg (by rw [← key]; exact hk)] at this
          exact this
      rw [tail, Prod.ext key val]

end Sys2Proof.Machine.Memory
end

