-- ==== Sys2Proof/Laws/PerInstr.lean ====
section
/-! SUPPORT. Laws/PerInstr.lean: the family EncodingLegal, one lemma per command. -/

namespace Sys2Proof.Laws.EncodingLegal

/-- The command is well formed, its word has RSV = 0 and decodes to it (30_encoding.md R80, R83). -/
def Statement (i : Instr) : Prop :=
  i.wellFormed = true ∧ rsvField (encode i) = 0#28 ∧ decodeCmd (encode i) = .ok i

theorem nop : Statement .nop := ⟨rfl, by decide, by decide⟩

theorem encode : Statement .encode := ⟨rfl, by decide, by decide⟩

theorem decode : Statement .decode := ⟨rfl, by decide, by decide⟩

theorem clrhzd : Statement .clrhzd := ⟨rfl, by decide, by decide⟩

end Sys2Proof.Laws.EncodingLegal
end

