-- ==== Sys2Proof/Laws/Sizes.lean ====
section
/-! SUPPORT. Laws/Sizes.lean: the search of Machine/Sizes.lean finds the least exponent (40_limb_reduction.md R106). -/

namespace Sys2Proof.Machine

/-- The search answers the least exponent whose power reaches the target, if one is within its fuel. -/
theorem leastExp_least {b t : Nat} : ∀ {fuel k : Nat}, t ≤ b ^ (k + fuel) → (∀ j, j < k → b ^ j < t) →
    t ≤ b ^ leastExp b t fuel k (b ^ k) ∧ ∀ j, j < leastExp b t fuel k (b ^ k) → b ^ j < t := by
  intro fuel
  induction fuel with
  | zero => intro k h hk; exact ⟨by simpa [leastExp] using h, by simpa [leastExp] using hk⟩
  | succ fuel ih =>
    intro k h hk
    simp only [leastExp]
    split_ifs with ht
    · exact ⟨ht, hk⟩
    · rw [← pow_succ]
      refine ih (by rwa [show k + 1 + fuel = k + (fuel + 1) by omega]) ?_
      intro j hj
      rcases Nat.lt_succ_iff_lt_or_eq.1 hj with hj | rfl
      · exact hk j hj
      · omega

/-- The least exponent is at most `k` exactly when the `k`-th power reaches the target. -/
theorem leastExp_le_iff {b t fuel : Nat} (hb : 1 ≤ b) (h : t ≤ b ^ fuel) (k : Nat) :
    leastExp b t fuel 0 1 ≤ k ↔ t ≤ b ^ k := by
  have hs := leastExp_least (b := b) (t := t) (fuel := fuel) (k := 0) (by simpa using h) (by omega)
  rw [pow_zero] at hs
  constructor
  · intro hk
    exact hs.1.trans (Nat.pow_le_pow_right hb hk)
  · intro hk
    by_contra hlt
    exact absurd (hs.2 k (by omega)) (by omega)

theorem encSize_le_iff (m k : Nat) : encSize m ≤ k ↔ 256 ^ m ≤ 58 ^ k := by
  refine leastExp_le_iff (by omega) ?_ k
  rw [pow_mul]
  exact Nat.pow_le_pow_left (by norm_num) m

theorem decSize_le_iff (m k : Nat) : decSize m ≤ k ↔ 58 ^ m ≤ 256 ^ k :=
  leastExp_le_iff (by omega) (Nat.pow_le_pow_left (by norm_num) m) k

end Sys2Proof.Machine
end

