-- ==== Sys2Proof/Laws/Step.lean ====
section
/-! SUPPORT. Laws/Step.lean: what a command, a completion and a step can do, said once. -/

namespace Sys2Proof.Machine

/-- What a conversion can do when it goes on (41_encode.md R130, 42_decode.md R150). -/
theorem convert_next {d : Direction} {s t : State} (h : convert d s = .next t) :
    (s.cfg.inCap < s.inLen.toNat ∧ t = s.completeError .lenRange s.inLen) ∨
    (s.inLen.toNat ≤ s.cfg.inCap ∧ ∃ u, s.inWin.readFrom 0 s.inLen.toNat = some u ∧ t = s.convertInput d u) := by
  unfold convert at h
  split_ifs at h with hn
  · exact .inl ⟨hn, by simpa using h.symm⟩
  · split at h
    · simp at h
    · rename_i u hu
      exact .inr ⟨by omega, u, hu, by simpa using h.symm⟩

/-- How a conversion of written input ends. -/
theorem convertInput_cases (d : Direction) (u : List Byte) (s : State) :
    (∃ e info dp, (e = .invalidCharacter ∨ e = .carryOverflow) ∧
      s.convertInput d u = (s.setDatapath dp).completeError e info) ∨
    (∃ c dp, foldInput d u = (.done, c) ∧
      s.convertInput d u = ((s.setDatapath dp).emit d (leadZ d.zeroIn u) c).completeResult
        (leadZ d.zeroIn u + c.work.length - skip c.work) (leadZ d.zeroIn u) c.length) := by
  unfold State.convertInput State.finish
  rcases hf : foldInput d u with ⟨e, c⟩
  cases e with
  | done => exact .inr ⟨c, _, rfl, rfl⟩
  | invalidCharacter j => exact .inl ⟨_, _, _, .inl rfl, rfl⟩
  | carryOverflow j => exact .inl ⟨_, _, _, .inr rfl, rfl⟩

/-- What a completion can do when it goes on: one of the four commands, or the illegal word's error (43_control.md R172). -/
theorem complete_next {s t : State} (h : complete s = .next t) :
    (∃ i, decodeCmd s.cw = .ok i ∧ exec i s = .next t) ∨
    (∃ r, decodeCmd s.cw = .error r ∧ t = s.completeError .illegalCmd s.cw) := by
  unfold complete at h
  split at h
  · rename_i i hi; exact .inl ⟨i, hi, h⟩
  · rename_i r hr; exact .inr ⟨r, hr, by simpa [completeIllegal] using h.symm⟩

/-- Who moved at a step that goes on, and what the move was. -/
theorem step_next {s t : State} (h : step s = .next t) :
    s.modelFault = none ∧ s.cfg.wellFormed = true ∧
    ((s.mover = .host ∧ hostTurn (s.setTurns s.env.turns.tail) = .next t) ∨
     (s.completes ∧ complete (s.setTurns s.env.turns.tail) = .next t) ∨
     (s.mover = .sequencer ∧ s.status.busy = false ∧ t = s.setTurns s.env.turns.tail) ∨
     (s.mover = .reset ∧ t = (s.setTurns s.env.turns.tail).resetBlock)) := by
  unfold step stepOnce at h
  split at h
  · simp at h
  · rename_i hf
    split_ifs at h with hc
    refine ⟨hf, hc, ?_⟩
    unfold takeTurn at h
    split at h
    · rename_i ts ht
      exact .inl ⟨by simp [State.mover, ht], by simpa [ht] using h⟩
    · rename_i ts ht
      unfold sequencerTurn at h
      split_ifs at h with hb
      · exact .inr (.inl ⟨⟨by simp [State.mover, ht], by simpa using hb⟩, by simpa [ht] using h⟩)
      · exact .inr (.inr (.inl ⟨by simp [State.mover, ht], by simpa using hb, by simpa [ht] using h.symm⟩))
    · rename_i ts ht
      exact .inr (.inr (.inr ⟨by simp [State.mover, ht], by simpa [ht] using h.symm⟩))
    · rename_i ht
      have hs : s.setTurns s.env.turns.tail = s := by
        rw [ht, List.tail_nil]
        unfold State.setTurns
        rw [← ht]
      rw [hs]
      split_ifs at h with hb
      · exact .inr (.inl ⟨⟨by simp [State.mover, ht, hb], hb⟩, h⟩)
      · exact .inl ⟨by simp [State.mover, ht, hb], h⟩

end Sys2Proof.Machine
end

