-- ==== Sys2Proof/Machine/HostProgram.lean ====
section
/-! DEFINITION. Machine/HostProgram.lean: the host program notation (30_encoding.md R87) and the pseudo-instructions with their
expansions (R88). A program is a list of lines; its transactions are what `env.program` holds. -/

namespace Sys2Proof.Machine

/-- A line of a host program (30_encoding.md R87, R88). The names results are bound to are the host's own: the response a read
gets stands in `env.responses`. -/
inductive HostLine where
  | wr32 (addr : Addr) (data : Word)
  | wr8 (addr : Addr) (data : Byte)
  | rd32 (addr : Addr)
  | rd8 (addr : Addr)
  /-- `NOP`, `ENCODE`, `DECODE`, `CLRHZD`. -/
  | command (i : Instr)
  | setLen (n : Word)
  | poll
  | loadIn (bs : List Byte)
  | readOut (k : Nat)
deriving DecidableEq, Repr

/-- The lines whose cells all have an 18-bit address (20_memory.md R50): LOADIN of at most 0x30000 bytes from 0x10000 on, READOUT of
at most 0x20000 cells from 0x20000 on. 30_encoding.md R88 sets no bound on `n` or `k`: DESIGN CHOICE, safe (log 22). -/
def HostLine.wellFormed : HostLine → Bool
  | .loadIn bs => decide (bs.length ≤ 0x30000)
  | .readOut k => decide (k ≤ 0x20000)
  | .wr32 _ _ => true
  | .wr8 _ _ => true
  | .rd32 _ => true
  | .rd8 _ => true
  | .command _ => true
  | .setLen _ => true
  | .poll => true

/-- The address of CMD (10_state.md R21). -/
def cmdAddr : Addr := 0x00010#18

/-- The address of IN_LEN (10_state.md R21). -/
def inLenAddr : Addr := 0x00018#18

/-- The CMD write a command pseudo-instruction stands for (30_encoding.md R88). -/
def commandWrite (i : Instr) : HostOp := .write cmdAddr 4 (encode i)

/-- `LOADIN` from cell `k` on (30_encoding.md R88): a 32-bit write for each full group of four bytes, then byte writes. -/
def loadInFrom : Nat → List Byte → List HostOp
  | k, b0 :: b1 :: b2 :: b3 :: bs =>
    .write (BitVec.ofNat 18 (0x10000 + k)) 4 (BitVec.ofNat 32 (lanesToNat [b0, b1, b2, b3])) :: loadInFrom (k + 4) bs
  | k, b :: bs => .write (BitVec.ofNat 18 (0x10000 + k)) 1 (b.setWidth 32) :: loadInFrom (k + 1) bs
  | _, [] => []

/-- The transactions of a well-formed line (30_encoding.md R87, R88). An ill-formed line has none by R88; there the total function
wraps the addresses at 18 bits, and `expandProgram` does not use it (log 22). -/
def HostLine.expand : HostLine → List HostOp
  | .wr32 a v => [.write a 4 v]
  | .wr8 a v => [.write a 1 (v.setWidth 32)]
  | .rd32 a => [.read a 4]
  | .rd8 a => [.read a 1]
  | .command i => [commandWrite i]
  | .setLen n => [.write inLenAddr 4 n]
  | .poll => [.poll]
  | .loadIn bs => loadInFrom 0 bs
  | .readOut k => (List.range k).map fun j => .read (BitVec.ofNat 18 (0x20000 + j)) 1

/-- A host program as the list of its transactions; none when one of its lines is ill formed (log 22). -/
def expandProgram (ls : List HostLine) : Option (List HostOp) :=
  if ls.all HostLine.wellFormed then some (ls.flatMap HostLine.expand) else none

/-- The hexadecimal digits of the low `4 * n` bits of `v`, most significant first. -/
def hexDigits (n v : Nat) : List Char := ((List.range n).reverse).map fun k => Nat.digitChar (v / 16 ^ k % 16) |>.toUpper

/-- The encoding of a transaction in a listing (30_encoding.md R87): `W4 <addr> <data>`, `W1 <addr> <data>`, `R4 <addr>`,
`R1 <addr>`. The notation has none for a transaction of size 2, and `POLL` is a loop of `R4 00014` lines. -/
def HostOp.listing : HostOp → Option (List Char)
  | .write a 4 v => some (['W', '4', ' '] ++ hexDigits 5 a.toNat ++ [' '] ++ hexDigits 8 v.toNat)
  | .write a 1 v => some (['W', '1', ' '] ++ hexDigits 5 a.toNat ++ [' '] ++ hexDigits 2 v.toNat)
  | .read a 4 => some (['R', '4', ' '] ++ hexDigits 5 a.toNat)
  | .read a 1 => some (['R', '1', ' '] ++ hexDigits 5 a.toNat)
  | .read _ _ => none
  | .write _ _ _ => none
  | .poll => none

end Sys2Proof.Machine
end

