-- ==== Sys2Proof/Tests/Slice0.lean ====
section
/-! SUPPORT. Tests/Slice0.lean: the ill-formed terms the checks refuse, command words written bit by bit, a few steps with the
results of 95_test_vectors.md, and for each obligation with hypotheses a concrete case that meets them (`test_witness_…`). -/

namespace Sys2Proof.Tests.Slice0

open Sys2Proof Sys2Proof.Machine

/-- A small legal configuration: ENC_SIZE(8) = 11 (95_test_vectors.md 2.3). -/
def small : Config := { inCap := 8, outCap := 11, workCap := 11 }

/-- An idle block whose host has loaded the input symbols and IN_LEN. -/
def loaded (u : List Byte) : State :=
  { State.resetWith small with inLen := BitVec.ofNat 32 u.length, inWin := Memory.writeFrom [] 0 u }

/-- The same block with an accepted command. -/
def running (i : Instr) (u : List Byte) : State := (loaded u).accept (encode i)

/-- The block with the transaction at hand for the host, whose turn is next. -/
def asked (op : HostOp) (s : State) : State := (s.setProgram [op]).setTurns [.host]

/-- What the tables of 95_test_vectors.md list of a completed command. -/
structure Row where
  status : Word
  errInfo : Word
  zcount : Nat
  diglen : Nat
  output : Option (List Byte)
deriving DecidableEq, Repr

/-- The row a command leaves, when it goes on. -/
def row : Result → Option Row
  | .next t => some ⟨t.status.word, t.errInfo, t.zcount.toNat, t.diglen.toNat, t.output⟩
  | .fault _ => none
  | .refused _ => none

/-! ### WellFormed: each check refuses an ill-formed term (00_scope.md R8, R11; 20_memory.md R51) -/

theorem test_config_default_accepted : Config.default.wellFormed = true := by decide
theorem test_config_small_accepted : small.wellFormed = true := by decide
theorem test_config_in_cap_zero : ({ small with inCap := 0 } : Config).wellFormed = false := by decide
theorem test_config_in_cap_too_big : Config.wellFormed { inCap := 47989, outCap := 65536, workCap := 65536 } = false := by
  decide
theorem test_config_out_cap_too_small : ({ small with outCap := 10 } : Config).wellFormed = false := by decide
theorem test_config_out_cap_too_big : ({ small with outCap := 65537 } : Config).wellFormed = false := by decide
theorem test_config_work_cap_too_small : ({ small with workCap := 10 } : Config).wellFormed = false := by decide
theorem test_config_work_cap_too_big : ({ small with workCap := 65537 } : Config).wellFormed = false := by decide
theorem test_op_size_three : (HostOp.read 0x10000#18 3).wellFormed = false := by decide
theorem test_op_write_size_eight : (HostOp.write 0x10000#18 8 0#32).wellFormed = false := by decide
theorem test_op_data_too_wide : (HostOp.write 0x10000#18 1 0x100#32).wellFormed = false := by decide
theorem test_op_refused :
    hostOp (.write 0x10000#18 1 0x100#32) State.reset = .refused .malformedTransaction := rfl
theorem test_line_loadin_too_long : (HostLine.loadIn (List.replicate 0x30001 0#8)).wellFormed = false := by
  rw [HostLine.wellFormed, List.length_replicate]
  rfl
theorem test_program_ill_formed_line : expandProgram [.poll, .readOut 0x20001] = none := by decide
theorem test_line_readout_too_long : (HostLine.readOut 0x20001).wellFormed = false := by decide

/-! ### Decode: words written out from 30_encoding.md R80 and R82 (RSV 31:4, OP 3:0) -/

theorem test_decode_nop : decodeCmd 0b00000000000000000000000000000000#32 = .ok .nop := by decide
theorem test_decode_encode : decodeCmd 0b00000000000000000000000000000001#32 = .ok .encode := by decide
theorem test_decode_decode : decodeCmd 0b00000000000000000000000000000010#32 = .ok .decode := by decide
theorem test_decode_clrhzd : decodeCmd 0b00000000000000000000000000000011#32 = .ok .clrhzd := by decide
/-- V-C5, V-C6: reserved opcodes. -/
theorem test_decode_reserved_opcode :
    decodeCmd 0x00000004#32 = .error .reservedOpcode ∧ decodeCmd 0x0000000F#32 = .error .reservedOpcode := by decide
/-- V-C7, V-C8, V-C10: a reserved bit makes a word ILLEGAL whatever OP is. -/
theorem test_decode_reserved_bits :
    decodeCmd 0x00000011#32 = .error .reservedBits ∧ decodeCmd 0x80000002#32 = .error .reservedBits ∧
      decodeCmd 0x00000010#32 = .error .reservedBits := by decide
theorem test_decode_table_word : decodeTableWord 32 3 = some .clrhzd ∧ decodeTableWord 32 4 = none := by decide

/-! ### One command each (95_test_vectors.md 2.5 to 2.7) -/

/-- V-C22: NOP keeps HZD. -/
theorem test_nop_keeps_hazard : row (exec .nop ((running .nop []).discardWrite)) =
    some ⟨0x0000000A#32, 0#32, 0, 0, some []⟩ := by decide
/-- V-H3: CLRHZD accepted, then a discarded write, then the completion. -/
theorem test_clrhzd_clears_hazard : row (exec .clrhzd ((running .clrhzd []).discardWrite)) =
    some ⟨0x00003002#32, 0#32, 0, 0, some []⟩ := by decide
/-- V-E13: `"111Ldp"`. -/
theorem test_encode_leading_zeros : row (exec .encode (running .encode [0x00#8, 0x00#8, 0x00#8, 0x01#8, 0x02#8, 0x03#8])) =
    some ⟨0x00001002#32, 0#32, 3, 3, some [0x31#8, 0x31#8, 0x31#8, 0x4C#8, 0x64#8, 0x70#8]⟩ := by decide
/-- V-E20: eight bytes 0xFF reach the bound ENC_SIZE(8) = 11. -/
theorem test_encode_full : row (exec .encode (running .encode (List.replicate 8 0xFF#8))) =
    some ⟨0x00001002#32, 0#32, 0, 11,
      some [0x6A#8, 0x70#8, 0x58#8, 0x43#8, 0x5A#8, 0x65#8, 0x64#8, 0x47#8, 0x66#8, 0x56#8, 0x51#8]⟩ := by decide
/-- V-D20: the work buffer is longer than the result. -/
theorem test_decode_skips_artifact : row (exec .decode (running .decode [0x37#8, 0x59#8, 0x58#8, 0x71#8, 0x39#8, 0x47#8])) =
    some ⟨0x00002002#32, 0#32, 0, 4, some [0xFF#8, 0xFF#8, 0xFF#8, 0xFF#8]⟩ := by decide
/-- V-X5: an invalid character after valid folds. -/
theorem test_decode_invalid_character : row (exec .decode (running .decode [0x31#8, 0x7A#8, 0x30#8])) =
    some ⟨0x00002106#32, 2#32, 0, 0, some []⟩ := by decide
/-- V-C8: an illegal word with bit 31 set. -/
theorem test_illegal_word : row (complete ((loaded []).accept 0x80000002#32)) =
    some ⟨0x00002306#32, 0x80000002#32, 0, 0, some []⟩ := by decide
/-- V-E34: an input cell nothing has written. -/
theorem test_encode_unwritten :
    exec .encode { running .encode [0x01#8, 0x02#8] with inLen := 3#32 } = .fault .uninitRead := rfl

/-! ### Datapath and bus (95_test_vectors.md 2.1, 2.2, 2.4, 2.8; 30_encoding.md R87, R88) -/

/-- V-L2, V-L5, V-L10. -/
theorem test_limb_step : limbStep 256 58 1 2 = (26, 4) ∧ limbStep 256 58 57 255 = (57, 255) ∧
    limbStep 58 256 255 57 = (255, 57) := by decide
/-- V-F1: the work buffer and the high-water mark after 01 02 03. -/
theorem test_fold_trace : (foldInput .toBase58 [0x01#8, 0x02#8, 0x03#8]).2.work = [0, 0, 19, 36, 47] ∧
    (foldInput .toBase58 [0x01#8, 0x02#8, 0x03#8]).2.length = 3 := by decide
/-- V-I2 to V-I16, at the edges of the six runs. -/
theorem test_idx : [0x30#8, 0x31#8, 0x39#8, 0x41#8, 0x48#8, 0x49#8, 0x4A#8, 0x4E#8, 0x4F#8, 0x50#8, 0x5A#8, 0x61#8, 0x6B#8, 0x6C#8,
      0x6D#8, 0x7A#8].map idx =
    [none, some 0, some 8, some 9, some 16, none, some 17, some 21, none, some 22, some 32, some 33, some 43, none,
      some 44, some 57] := by decide
/-- V-B1, V-B2, V-B10, V-B11, V-B13, V-B19. -/
theorem test_bus_reads : memRead 0x00000#18 4 State.reset = .value .okay 0x0B580001#32 ∧
    memRead 0x00004#18 4 State.reset = .value .okay 0x00000400#32 ∧
    memRead 0x00014#18 1 State.reset = .value .error 0#32 ∧ memRead 0x00016#18 4 State.reset = .value .error 0#32 ∧
    memRead 0x10000#18 2 State.reset = .value .error 0#32 ∧ memRead 0x20574#18 4 State.reset = .value .error 0#32 := by
  decide
/-- V-B15: IN[1020..1023] = 11 22 33 44. -/
theorem test_bus_word_lanes : ((memWrite 0x103FC#18 4 0x44332211#32 State.reset).2.inWin) =
    [(1020, 0x11#8), (1021, 0x22#8), (1022, 0x33#8), (1023, 0x44#8)] := by decide
/-- V-B24. -/
theorem test_bus_unwritten : hostRead 0x10000#18 1 State.reset = .fault .uninitRead := rfl
/-- V-B28, V-B29. -/
theorem test_bus_busy_writes :
    (memWrite 0x10000#18 1 0x41#32 (running .encode [])).2.status.hzd = true ∧
      memWrite 0x20000#18 1 0x00#32 (running .encode []) = (.error, running .encode []) := ⟨by decide, rfl⟩
/-- P1's listing of a word write and of SETLEN 11. -/
theorem test_listing : (HostOp.write 0x10000#18 4 0x6C6C6548#32).listing = some "W4 10000 6C6C6548".toList ∧
    (HostLine.setLen 11#32).expand.map HostOp.listing = [some "W4 00018 0000000B".toList] := by decide
/-- 30_encoding.md R88: LOADIN of five bytes. -/
theorem test_loadin : (HostLine.loadIn [0x48#8, 0x65#8, 0x6C#8, 0x6C#8, 0x6F#8]).expand =
    [.write 0x10000#18 4 0x6C6C6548#32, .write 0x10004#18 1 0x6F#32] := by decide
/-- A placed command runs at the next step: V-R6, ENCODE with IN_LEN = 0 right after reset. -/
theorem test_placed_encode : row (step (State.reset.withFetchWord 32 1)) = some ⟨0x00001002#32, 0#32, 0, 0, some []⟩ := by
  decide

/-! ### Witnesses: each hypothesis of an obligation is met, at the edges of its ranges -/

/-- An accepted word in a block whose sequencer is next. -/
def latched (v : Word) (u : List Byte) : State := ((loaded u).accept v).setTurns [.sequencer]

theorem test_witness_StepRunsLatchedCommand_legal :
    (latched 2#32 []).modelFault = none ∧ (latched 2#32 []).cfg.wellFormed = true ∧ (latched 2#32 []).completes ∧
      decodeCmd (latched 2#32 []).cw = .ok .decode := ⟨rfl, by decide, ⟨rfl, rfl⟩, by decide⟩

theorem test_witness_StepRunsLatchedCommand_illegal :
    (latched 4#32 []).modelFault = none ∧ (latched 4#32 []).cfg.wellFormed = true ∧ (latched 4#32 []).completes ∧
      decodeCmd (latched 4#32 []).cw = .error .reservedOpcode := ⟨rfl, by decide, ⟨rfl, rfl⟩, by decide⟩

theorem test_witness_SequencerWaitsForBusy :
    ((loaded []).setTurns [.sequencer]).modelFault = none ∧ ((loaded []).setTurns [.sequencer]).cfg.wellFormed = true ∧
      ((loaded []).setTurns [.sequencer]).mover = .sequencer ∧ ((loaded []).setTurns [.sequencer]).status.busy = false :=
  ⟨rfl, by decide, rfl, rfl⟩

/-- No statement, a read, a write, a POLL and an ill-formed statement; the running block's host may move too. -/
theorem test_witness_StepRunsHostTurn :
    State.reset.modelFault = none ∧ State.reset.cfg.wellFormed = true ∧ State.reset.mover = .host ∧ State.reset.env.program = [] ∧
      (asked (.read 0x3FFFF#18 1) (running .nop [])).mover = .host ∧ (asked .poll (running .nop [])).cfg.wellFormed = true ∧
      (asked .poll (running .nop [])).env.program = .poll :: [] ∧
      (HostOp.read 0x3FFFF#18 2).wellFormed = true ∧ (HostOp.write 0x10000#18 1 0xFF#32).wellFormed = true ∧
      (HostOp.write 0x10000#18 1 0x100#32).wellFormed = false :=
  ⟨rfl, by decide, rfl, rfl, rfl, by decide, rfl, by decide, by decide, by decide⟩

/-- A read that answers a value, and one of a cell nothing has written. -/
theorem test_witness_StepRunsHostTurn_read :
    memRead 0x00018#18 4 (((asked (.read 0x00018#18 4) (loaded [])).setTurns []).setProgram []) = .value .okay 0#32 ∧
      memRead 0x10000#18 1 (((asked (.read 0x10000#18 1) (loaded [])).setTurns []).setProgram []) = .unwritten := by decide

theorem test_witness_PlacedCommandRunsNext :
    State.reset.modelFault = none ∧ State.reset.cfg.wellFormed = true ∧ decodeCmd (BitVec.ofNat 32 3) = .ok .clrhzd :=
  ⟨rfl, by decide, by decide⟩

theorem test_witness_IllegalWordCompletesWithIllegalCmd :
    State.reset.modelFault = none ∧ State.reset.cfg.wellFormed = true ∧
      decodeCmd 0x00000004#32 = .error .reservedOpcode ∧ decodeCmd 0x00000010#32 = .error .reservedBits :=
  ⟨rfl, by decide, by decide, by decide⟩

theorem test_witness_ModelFaultIsSticky :
    (State.reset.recordFault .uninitRead).modelFault = some .uninitRead := rfl

theorem test_witness_ModelFaultIsSticky_records :
    (asked (.read 0x10000#18 1) (loaded [])).modelFault = none ∧
      step (asked (.read 0x10000#18 1) (loaded [])) = .fault .uninitRead := ⟨rfl, rfl⟩

/-- A block of a configuration that breaks 00_scope.md R8. -/
def misconfigured : State := State.resetWith { inCap := 8, outCap := 10, workCap := 11 }

theorem test_witness_ConfigurationAcceptedIffConstraints :
    misconfigured.modelFault = none ∧ misconfigured.cfg.wellFormed = false := ⟨rfl, by decide⟩

theorem test_witness_CommandWriteIsAccepted : State.reset.status.busy = false := rfl

theorem test_witness_InLenWriteIsStored : (loaded [0x01#8]).status.busy = false := rfl

/-- Registers, and the first and the last cells of the input window. -/
theorem test_witness_BusyWritesAreDiscarded :
    (running .encode []).status.busy = true ∧ legalSize 4 = true ∧ legalSize 1 = true ∧
      0x10000 ≤ (0x10004#18).toNat ∧ (0x10004#18).toNat < 0x20000 ∧ (0x10004#18).toNat % 4 = 0 ∧
      (0x10004#18).toNat - 0x10000 + 4 ≤ (running .encode []).cfg.inCap ∧
      (0x10007#18).toNat - 0x10000 + 1 ≤ (running .encode []).cfg.inCap :=
  ⟨rfl, by decide, by decide, by decide, by decide, by decide, by decide, by decide⟩

/-- The second clause: one cell beyond the window; the third: read-only and reserved registers. -/
theorem test_witness_BusyWritesAreDiscarded_others :
    ¬ ((0x10008#18).toNat - 0x10000 + 1 ≤ (running .encode []).cfg.inCap) ∧
      (0x00014#18).toNat < 0x01000 ∧ 0x00014#18 ≠ 0x00010#18 ∧ 0x00014#18 ≠ 0x00018#18 ∧
      (0x00FFC#18).toNat < 0x01000 ∧ 0x00FFC#18 ≠ 0x00010#18 ∧ 0x00FFC#18 ≠ 0x00018#18 := by decide

/-- One transaction for each group of the list, read and write. -/
theorem test_witness_BusErrorsExactly :
    legalSize 1 = true ∧ legalSize 2 = true ∧ legalSize 4 = true ∧
      memRead 0x00FFF#18 1 (loaded []) = .value .error 0#32 ∧ memRead 0x01000#18 4 (loaded []) = .value .error 0#32 ∧
      memRead 0x0FFFF#18 1 (loaded []) = .value .error 0#32 ∧ memRead 0x30000#18 1 (loaded []) = .value .error 0#32 ∧
      memRead 0x10008#18 1 (loaded []) = .value .error 0#32 ∧ memRead 0x2000B#18 1 (loaded []) = .value .error 0#32 ∧
      memRead 0x1FFFF#18 1 (loaded []) = .value .error 0#32 ∧ memRead 0x2FFFF#18 1 (loaded []) = .value .error 0#32 ∧
      (memWrite 0x2FFFF#18 1 0#32 (loaded [])).1 = .error := by decide

theorem test_witness_RegisterReadsOfIdleBlock :
    State.reset.status.busy = false ∧ 0x0002C ≤ (0x0002C#18).toNat ∧ (0x0002C#18).toNat % 4 = 0 ∧
      0x0002C ≤ (0x00FFC#18).toNat ∧ (0x00FFC#18).toNat < 0x01000 ∧ (0x00FFC#18).toNat % 4 = 0 :=
  ⟨rfl, by decide, by decide, by decide, by decide, by decide⟩

/-- The last output cell, and a read that is no result. -/
theorem test_witness_BusyReadsAreFreeValues :
    (running .decode []).status.busy = true ∧ legalSize 1 = true ∧ 0x20000 ≤ (0x2000A#18).toNat ∧
      (0x2000A#18).toNat < 0x30000 ∧ (0x2000A#18).toNat - 0x20000 + 1 ≤ (running .decode []).cfg.outCap ∧
      (0x20004#18).toNat % 4 = 0 ∧ (0x20004#18).toNat - 0x20000 + 4 ≤ (running .decode []).cfg.outCap ∧
      ¬ ((0x2000B#18).toNat - 0x20000 + 1 ≤ (running .decode []).cfg.outCap) ∧ 0x00018#18 ≠ 0x00014#18 :=
  ⟨rfl, by decide, by decide, by decide, by decide, by decide, by decide, by decide, by decide⟩

/-- A result register, the first and the last of the four. -/
theorem test_witness_BusyReadsAreFreeValues_registers :
    (running .decode []).status.busy = true ∧ legalSize 4 = true ∧
      memRead 0x0001C#18 4 (running .decode []) = .unspecified 4 ∧
      memRead 0x00028#18 4 (running .decode []) = .unspecified 4 := ⟨rfl, by decide, by decide, by decide⟩

theorem test_witness_HostReadChangesOnlyThePort :
    ∃ t, hostRead 0x00018#18 4 (loaded [0x01#8]) = .next t ∧ (loaded [0x01#8]).status.busy = false := ⟨_, rfl, rfl⟩

theorem test_witness_InputWordWriteReadsBack :
    (loaded []).status.busy = false ∧ 0x10000 ≤ (0x10004#18).toNat ∧ (0x10004#18).toNat < 0x20000 ∧
      (0x10004#18).toNat % 4 = 0 ∧ (0x10004#18).toNat - 0x10000 + 4 ≤ (loaded []).cfg.inCap :=
  ⟨rfl, by decide, by decide, by decide, by decide⟩

theorem test_witness_InputByteWriteReadsBack :
    (loaded []).status.busy = false ∧ 0x10000 ≤ (0x10007#18).toNat ∧ (0x10007#18).toNat < 0x20000 ∧
      (0x10007#18).toNat - 0x10000 + 1 ≤ (loaded []).cfg.inCap := ⟨rfl, by decide, by decide, by decide⟩

/-- A block with its eleven output cells written. -/
def filled : State := { loaded [] with outWin := Memory.writeFrom [] 0 (List.replicate 11 0x31#8) }

theorem test_witness_OutputReadsOfIdleBlock :
    filled.status.busy = false ∧ 10 + 1 ≤ filled.cfg.outCap ∧ 4 + 4 ≤ filled.cfg.outCap ∧ 4 % 4 = 0 ∧
      (∀ k, k < 4 → filled.outWin.get (4 + k) = (List.replicate 4 0x31#8)[k]?) ∧
      (loaded []).status.busy = false ∧ ∃ k, k < 4 ∧ (loaded []).outWin.get (4 + k) = none :=
  ⟨rfl, by decide, by decide, by decide, by decide, rfl, 0, by decide, rfl⟩

theorem test_witness_OnlyConversionsWriteOutput :
    (∃ t, step ((running .encode [0x01#8]).setTurns []) = .next t ∧ t.outWin ≠ (running .encode [0x01#8]).outWin) ∧
      0x20000 ≤ (0x20000#18).toNat ∧ (0x2FFFF#18).toNat < 0x30000 := ⟨⟨_, rfl, by decide⟩, by decide, by decide⟩

theorem test_witness_HazardFlagIsSticky_clear :
    ∃ t, step ((running .clrhzd []).discardWrite) = .next t ∧ ((running .clrhzd []).discardWrite).status.hzd = true ∧
      t.status.hzd = false ∧ ((running .clrhzd []).discardWrite).completes ∧
      decodeCmd ((running .clrhzd []).discardWrite).cw = .ok .clrhzd := ⟨_, rfl, rfl, rfl, ⟨rfl, rfl⟩, by decide⟩

theorem test_witness_HazardFlagIsSticky_set :
    ∃ t, step (asked (.write 0x00018#18 4 2#32) (running .encode [])) = .next t ∧
      (asked (.write 0x00018#18 4 2#32) (running .encode [])).status.hzd = false ∧ t.status.hzd = true := ⟨_, rfl, rfl, rfl⟩

theorem test_witness_OnlyTheHostWritesInputs :
    (∃ t, step (asked (.write 0x00018#18 4 2#32) (loaded [])) = .next t ∧
      t.inLen ≠ (asked (.write 0x00018#18 4 2#32) (loaded [])).inLen) ∧
    (∃ t, step (asked (.write 0x10007#18 1 0xFF#32) (loaded [])) = .next t ∧
      t.inWin ≠ (asked (.write 0x10007#18 1 0xFF#32) (loaded [])).inWin) := ⟨⟨_, rfl, by decide⟩, _, rfl, by decide⟩

theorem test_witness_ResultsChangeOnlyAtCompletion :
    ∃ t, step (asked (.write 0x00010#18 4 1#32) filled) = .next t ∧
      (asked (.write 0x00010#18 4 1#32) filled).mover ≠ .reset ∧ ¬ (asked (.write 0x00010#18 4 1#32) filled).completes :=
  ⟨_, rfl, by decide, fun h => absurd h.1 (by decide)⟩

theorem test_witness_HostCannotDisturbRunningCommand :
    ∃ t, (asked (.write 0x00010#18 4 2#32) (running .encode [])).status.busy = true ∧
      hostTurn (asked (.write 0x00010#18 4 2#32) (running .encode [])) = .next t := ⟨_, rfl, rfl⟩

theorem test_witness_DiscardedWriteLeavesResult : ∃ t, exec .encode (running .encode [0x01#8]) = .next t := ⟨_, rfl⟩

theorem test_witness_ConfigurationIsConstant : ∃ t, step (running .decode [0x32#8]) = .next t := ⟨_, rfl⟩

/-- The invariant holds in a state from which an ENCODE completes. -/
theorem test_witness_StepKeepsInvariant :
    (running .encode [0x01#8]).Inv ∧ ∃ t, step (running .encode [0x01#8]) = .next t :=
  ⟨{ inWf := by decide, inBound := by decide, outWf := by decide, outBound := by decide, phaseBusy := by decide,
     busyDone := by decide, errDone := by decide, errcodeErr := by decide, errcodeRaised := by decide,
     errInfoZero := by decide, errNoResult := by decide, lengths := by decide, outLenCap := by decide,
     outWritten := fun k hk => absurd hk (Nat.not_lt_zero k), zCap := by decide, sizeCap := by decide,
     lengthSize := by decide, positionLow := by decide, positionHigh := by decide, workSize := by decide }, _, rfl⟩

theorem test_witness_ResetEventPutsResetValues :
    ((running .encode [0x01#8]).setTurns [.reset]).modelFault = none ∧
      ((running .encode [0x01#8]).setTurns [.reset]).cfg.wellFormed = true ∧
      ((running .encode [0x01#8]).setTurns [.reset]).mover = .reset := ⟨rfl, by decide, rfl⟩

theorem test_witness_RunningCommandCompletes :
    ∃ t, ((running .nop []).setTurns [.host]).status.busy = true ∧
      Sys2Proof.core.run (((running .nop []).setTurns [.host]).env.turns.length + 1)
        ((running .nop []).setTurns [.host]) = .next t := ⟨_, rfl, rfl⟩

theorem test_witness_HiddenStateIsUnobservable :
    VisibleEq (loaded [0x01#8])
      { loaded [0x01#8] with cw := 7#32, dp := { Datapath.reset with z := 5#32, work := [0xAA#8] } } :=
  ⟨rfl, rfl, rfl, rfl, rfl, rfl, rfl, rfl, by decide, rfl, rfl, rfl, rfl⟩

theorem test_witness_PollRepeatsWhileBusy :
    (asked .poll (running .nop [])).env.program = .poll :: [] ∧ (asked .poll (running .nop [])).status.busy = true ∧
      (asked .poll (loaded [])).env.program = .poll :: [] ∧ (asked .poll (loaded [])).status.busy = false :=
  ⟨rfl, rfl, rfl, rfl⟩

theorem test_witness_CommandFrame :
    (running .encode [0x01#8]).cfg.wellFormed = true ∧ ∃ t, exec .encode (running .encode [0x01#8]) = .next t :=
  ⟨by decide, _, rfl⟩

theorem test_witness_ErrorsArePrecise :
    ∃ t, exec .decode (running .decode [0x30#8]) = .next t ∧ t.status.err = true := ⟨_, rfl, rfl⟩

theorem test_witness_WrittenInputAlwaysCompletes :
    (loaded (List.replicate 8 0x00#8)).inLen.toNat ≤ (loaded (List.replicate 8 0x00#8)).cfg.inCap ∧
      ∀ k, k < (loaded (List.replicate 8 0x00#8)).inLen.toNat → ((loaded (List.replicate 8 0x00#8)).inWin.get k).isSome := by
  decide

theorem test_witness_EncodeLeavesReferenceForm :
    (loaded [0x00#8, 0xFF#8]).cfg.wellFormed = true ∧ (loaded [0x00#8, 0xFF#8]).inLen.toNat ≤ (loaded [0x00#8, 0xFF#8]).cfg.inCap ∧
      (loaded [0x00#8, 0xFF#8]).input = some [0x00#8, 0xFF#8] := by decide

theorem test_witness_DecodeLeavesReferenceForm :
    (loaded [0x31#8, 0x7A#8]).cfg.wellFormed = true ∧ (loaded [0x31#8, 0x7A#8]).inLen.toNat ≤ (loaded [0x31#8, 0x7A#8]).cfg.inCap ∧
      (loaded [0x31#8, 0x7A#8]).input = some [0x31#8, 0x7A#8] ∧ ∀ c ∈ [0x31#8, 0x7A#8], idx c ≠ none := by decide

theorem test_witness_LengthOutOfRangeCompletesWithError :
    ({ loaded [] with inLen := 9#32 } : State).cfg.inCap < ({ loaded [] with inLen := 9#32 } : State).inLen.toNat := by decide

theorem test_witness_DecodeReportsFirstInvalidCharacter :
    (loaded [0x32#8, 0x6C#8]).inLen.toNat ≤ (loaded [0x32#8, 0x6C#8]).cfg.inCap ∧
      (loaded [0x32#8, 0x6C#8]).input = some [0x32#8, 0x6C#8] ∧ [0x32#8, 0x6C#8][1]? = some 0x6C#8 ∧ idx 0x6C#8 = none ∧
      (∀ k b, k < 1 → [0x32#8, 0x6C#8][k]? = some b → idx b ≠ none) ∧
      ∃ t, exec .encode (loaded [0x32#8, 0x6C#8]) = .next t := by
  refine ⟨by decide, by decide, by decide, by decide, ?_, _, rfl⟩
  intro k b hk hb
  obtain rfl : k = 0 := by omega
  obtain rfl : 0x32#8 = b := by simpa using hb
  decide

theorem test_witness_UnwrittenCellFaults :
    ({ loaded [] with inLen := 8#32 } : State).inLen.toNat ≤ ({ loaded [] with inLen := 8#32 } : State).cfg.inCap ∧
      7 < ({ loaded [] with inLen := 8#32 } : State).inLen.toNat ∧ ({ loaded [] with inLen := 8#32 } : State).inWin.get 7 = none ∧
      7 < (loaded []).cfg.inCap ∧ (loaded []).inWin.get 7 = none := by decide

/-- The last word of the window, its last cell unwritten. -/
theorem test_witness_UnwrittenCellFaults_word :
    4 % 4 = 0 ∧ 4 + 4 ≤ (loaded (List.replicate 7 0x31#8)).cfg.inCap ∧
      ∃ j, j < 4 ∧ (loaded (List.replicate 7 0x31#8)).inWin.get (4 + j) = none := ⟨by decide, by decide, 3, by decide, by decide⟩

theorem test_witness_EmptyAndAllZeroInputs :
    (loaded []).inLen = 0#32 ∧
      (loaded (List.replicate 8 0x00#8)).input = some (List.replicate (loaded (List.replicate 8 0x00#8)).inLen.toNat 0x00#8) ∧
      (loaded (List.replicate 8 0x31#8)).input = some (List.replicate (loaded (List.replicate 8 0x31#8)).inLen.toNat 0x31#8) ∧
      (loaded (List.replicate 8 0x31#8)).inLen.toNat ≤ (loaded (List.replicate 8 0x31#8)).cfg.inCap ∧
      (loaded [0x30#8, 0x4F#8, 0x49#8, 0x6C#8]).input = some [0x30#8, 0x4F#8, 0x49#8, 0x6C#8] ∧
      (loaded [0x30#8, 0x4F#8, 0x49#8, 0x6C#8]).inLen.toNat ≤ (loaded [0x30#8, 0x4F#8, 0x49#8, 0x6C#8]).cfg.inCap := by decide

theorem test_witness_CarryOverflowIsNeverRaised : ∃ t, exec .decode (running .decode [0x7A#8, 0x7A#8]) = .next t := ⟨_, rfl⟩

theorem test_witness_EncodeLeadingZeroFidelity :
    (loaded [0x00#8, 0x3A#8]).cfg.wellFormed = true ∧
      ∃ t, exec .encode (loaded [0x00#8, 0x3A#8]) = .next t ∧ t.status.err = false ∧ t.zcount.toNat < t.outLen.toNat :=
  ⟨by decide, _, rfl, rfl, by decide⟩

/-- FF FF, `"LUv"` (V-E11). -/
theorem test_witness_RoundTripBytesFirst :
    (loaded [0xFF#8, 0xFF#8]).cfg.wellFormed = true ∧ (loaded [0xFF#8, 0xFF#8]).input = some [0xFF#8, 0xFF#8] ∧
      encSize 2 ≤ (loaded [0xFF#8, 0xFF#8]).cfg.inCap ∧
      ∃ t, exec .encode (loaded [0xFF#8, 0xFF#8]) = .next t ∧ (loaded [0x4C#8, 0x55#8, 0x76#8]).cfg = (loaded [0xFF#8, 0xFF#8]).cfg ∧
        (loaded [0x4C#8, 0x55#8, 0x76#8]).inLen = t.outLen ∧ (loaded [0x4C#8, 0x55#8, 0x76#8]).input = t.output :=
  ⟨by decide, by decide, by decide, _, rfl, rfl, by decide, by decide⟩

/-- `"LUw"`, 01 00 00 (V-D11). -/
theorem test_witness_RoundTripTextFirst :
    (loaded [0x4C#8, 0x55#8, 0x77#8]).cfg.wellFormed = true ∧
      (loaded [0x4C#8, 0x55#8, 0x77#8]).inLen.toNat ≤ (loaded [0x4C#8, 0x55#8, 0x77#8]).cfg.inCap ∧
      (loaded [0x4C#8, 0x55#8, 0x77#8]).input = some [0x4C#8, 0x55#8, 0x77#8] ∧
      (∀ x ∈ [0x4C#8, 0x55#8, 0x77#8], idx x ≠ none) ∧
      ∃ t, exec .decode (loaded [0x4C#8, 0x55#8, 0x77#8]) = .next t ∧
        (loaded [0x01#8, 0x00#8, 0x00#8]).cfg = (loaded [0x4C#8, 0x55#8, 0x77#8]).cfg ∧
        (loaded [0x01#8, 0x00#8, 0x00#8]).inLen = t.outLen ∧ (loaded [0x01#8, 0x00#8, 0x00#8]).input = t.output :=
  ⟨by decide, by decide, by decide, by decide, _, rfl, rfl, by decide, by decide⟩

theorem test_witness_EncodeOutputFits :
    (loaded [0xFF#8]).cfg.wellFormed = true ∧ ∃ t, exec .encode (loaded [0xFF#8]) = .next t ∧ t.status.err = false :=
  ⟨by decide, _, rfl, rfl⟩

theorem test_witness_DecodeOutputFits :
    (loaded [0x32#8]).cfg.wellFormed = true ∧ ∃ t, exec .decode (loaded [0x32#8]) = .next t ∧ t.status.err = false :=
  ⟨by decide, _, rfl, rfl⟩

/-- The largest carry of each direction (V-L5, V-L10). -/
theorem test_witness_LimbStepExactAndBounded :
    57 < Direction.toBase58.rOut ∧ 255 < Direction.toBytes.rOut ∧ (∀ k, [57].getD k 0 < Direction.toBase58.rOut) ∧ 255 < Direction.toBase58.rIn ∧
      (∀ k, [255].getD k 0 < Direction.toBytes.rOut) ∧ 57 < Direction.toBytes.rIn ∧ 14847 ≤ 14847 := by
  refine ⟨by decide, by decide, fun k => ?_, by decide, fun k => ?_, by decide, by decide⟩ <;> cases k <;> simp [Direction.rOut]

theorem test_witness_FoldInvariant :
    (∀ b ∈ [0x35#8, 0x51#8], Direction.toBytes.digit b ≠ none) ∧
      (∀ b, [0x35#8, 0x51#8].head? = some b → Direction.toBytes.digit b ≠ some 0) ∧
      Direction.toBytes.workSize [0x35#8, 0x51#8].length ≤ 2 := by
  refine ⟨by decide, ?_, by decide⟩
  intro b hb
  obtain rfl : 0x35#8 = b := by simpa using hb
  decide

theorem test_witness_BufferSizeIndependence :
    Direction.toBase58.workSize [0x01#8, 0x02#8].length ≤ 3 ∧ Direction.toBase58.workSize [0x01#8, 0x02#8].length ≤ 7 := by
  decide

theorem test_witness_WorkBufferNeverLacksACell : Config.default.wellFormed = true ∧ 1024 ≤ Config.default.inCap := by decide

theorem test_witness_WorkBufferNeverLacksACell_size :
    (loaded [0x31#8, 0x7A#8]).cfg.wellFormed = true ∧ (loaded [0x31#8, 0x7A#8]).inLen.toNat ≤ (loaded [0x31#8, 0x7A#8]).cfg.inCap ∧
      (loaded [0x31#8, 0x7A#8]).input = some [0x31#8, 0x7A#8] ∧ (∃ t, exec .encode (loaded [0x31#8, 0x7A#8]) = .next t) ∧
      ∃ t, exec .decode (loaded [0x31#8, 0x7A#8]) = .next t := ⟨by decide, by decide, by decide, ⟨_, rfl⟩, _, rfl⟩

theorem test_witness_LeadingZeroCount : leadZ 0x00#8 [0x00#8, 0x01#8, 0x00#8] < [0x00#8, 0x01#8, 0x00#8].length := by decide

theorem test_witness_SkipStopsAtFirstNonZero : skip [0, 3, 0] < [0, 3, 0].length := by decide

/-- The last word of the window, written and not, while a command runs. -/
theorem test_witness_InputReads :
    4 + 4 ≤ (running .nop (List.replicate 8 0x31#8)).cfg.inCap ∧ 7 + 1 ≤ (running .nop []).cfg.inCap ∧ 4 % 4 = 0 ∧
      (∀ k, k < 4 → (running .nop (List.replicate 8 0x31#8)).inWin.get (4 + k) = (List.replicate 4 0x31#8)[k]?) ∧
      ∃ k, k < 1 ∧ (running .nop []).inWin.get (7 + k) = none :=
  ⟨by decide, by decide, by decide, by decide, 0, by decide, by decide⟩

end Sys2Proof.Tests.Slice0
end

section
/-! PROOF. Scope (00_scope.md): which configurations are accepted, what the host's turn of a step is, and the sticky record of
a model fault. -/

/-! ### The configuration (R8) -/

namespace Sys2Proof

theorem Config.meetsConstraints_iff (c : Config) : c.meetsConstraints = true ↔
    (1 ≤ c.inCap ∧ c.inCap ≤ 47988 ∧ Machine.encSize c.inCap ≤ c.outCap ∧ c.outCap ≤ 65536 ∧
      Machine.encSize c.inCap ≤ c.workCap ∧ c.workCap ≤ 65536) := by
  simp [Config.meetsConstraints, and_assoc]

/-- ENC_SIZE(1024) <= 1399, by the powers it compares; they are written as products so that each exponent is small. -/
theorem encSize_default_le : Machine.encSize 1024 ≤ 1399 := by
  rw [Machine.encSize_le_iff]
  calc 256 ^ 1024 = (256 ^ 128) ^ 8 := (pow_mul 256 128 8)
    _ ≤ (58 ^ 233) ^ 6 * 58 := by norm_num
    _ = 58 ^ 1399 := by rw [← pow_mul, ← pow_succ]

theorem Config.default_meetsConstraints : Config.default.meetsConstraints = true :=
  Config.default.meetsConstraints_iff.2
    ⟨by decide, by decide, encSize_default_le, by decide, encSize_default_le, by decide⟩

/-- The default, which `Config.wellFormed` names first, adds no configuration. -/
theorem Config.wellFormed_iff (c : Config) : c.wellFormed = true ↔ c.meetsConstraints = true := by
  rw [Config.wellFormed, Bool.or_eq_true, beq_iff_eq]
  refine or_iff_right_of_imp ?_
  rintro rfl
  exact Config.default_meetsConstraints

end Sys2Proof

namespace Sys2Proof.Machine

/-! ### The step, by what it looks at first -/

theorem step_of_modelFault {s : State} {f : Fault} (hf : s.modelFault = some f) : step s = .fault f := by
  rw [step, stepOnce, hf]

theorem step_of_illegalConfig {s : State} (hf : s.modelFault = none) (hc : s.cfg.wellFormed = false) :
    step s = .refused .illegalConfig := by
  simp [step, stepOnce, hf, hc]

theorem step_eq_takeTurn {s : State} (hf : s.modelFault = none) (hc : s.cfg.wellFormed = true) : step s = takeTurn s := by
  simp [step, stepOnce, hf, hc]

/-! ### The host's turn (R15, 30_encoding.md R87, R88) -/

/-- Taking a turn off a schedule that has none chosen changes nothing. -/
theorem State.setTurns_tail_of_nil {s : State} (h : s.env.turns = []) : s.setTurns s.env.turns.tail = s := by
  rw [h, List.tail_nil, ← h]
  rfl

theorem takeTurn_of_mover_host {s : State} (h : s.mover = .host) : takeTurn s = hostTurn (s.setTurns s.env.turns.tail) := by
  cases ht : s.env.turns with
  | cons turn ts =>
    obtain rfl : turn = .host := by simpa [State.mover, ht] using h
    simp [takeTurn, ht]
  | nil =>
    have hb : s.status.busy = false := by simpa [State.mover, ht] using h
    rw [← ht, State.setTurns_tail_of_nil ht]
    simp [takeTurn, ht, hb]

theorem hostTurn_of_nil {s : State} (h : s.env.program = []) : hostTurn s = .next s := by
  rw [hostTurn, h]

theorem hostTurn_of_cons {s : State} {op : HostOp} {rest : List HostOp} (h : s.env.program = op :: rest) :
    hostTurn s = hostOp op (s.setProgram rest) := by
  rw [hostTurn, h]

theorem hostOp_read {n : Nat} (hn : legalSize n = true) (a : Addr) (s : State) : hostOp (.read a n) s = hostRead a n s :=
  if_pos hn

theorem hostOp_write {n : Nat} {v : Word} (hn : legalSize n = true) (hv : v.toNat < 256 ^ n) (a : Addr) (s : State) :
    hostOp (.write a n v) s = hostWrite a n v s :=
  if_pos (by simp [HostOp.wellFormed, hn, hv])

theorem hostOp_poll (s : State) : hostOp .poll s = hostPoll s := rfl

theorem hostOp_of_malformed {op : HostOp} (h : op.wellFormed = false) (s : State) :
    hostOp op s = .refused .malformedTransaction := by
  simp [hostOp, h]

theorem hostRead_of_value {a : Addr} {n : Nat} {s : State} {r : Resp} {d : Word} (h : memRead a n s = .value r d) :
    hostRead a n s = .next (s.respond (.read r d)) := by
  rw [hostRead, h]

theorem hostRead_of_unwritten {a : Addr} {n : Nat} {s : State} (h : memRead a n s = .unwritten) :
    hostRead a n s = .fault .uninitRead := by
  rw [hostRead, h]

/-- Bit 0 of STATUS is BUSY (10_state.md R28). -/
theorem Status.word_getLsbD_zero (st : Status) : st.word.getLsbD 0 = st.busy := by
  rw [Status.word, BitVec.getLsbD_append]
  simp

/-- A round of POLL keeps the loop in the program exactly while BUSY = 1. -/
theorem hostPoll_setProgram (s : State) (rest : List HostOp) : hostPoll (s.setProgram rest) =
    hostRead 0x00014#18 4 (s.setProgram (if s.status.busy then .poll :: rest else rest)) := by
  rw [hostPoll, Status.word_getLsbD_zero, State.setProgram_status]
  cases s.status.busy <;> rfl

end Sys2Proof.Machine

/-! ### The fault record (R13, 43_control.md R174) -/

namespace Sys2Proof

open Machine

theorem advance_of_fault {s : State} {f : Fault} (h : step s = .fault f) : advance s = s.recordFault f := by
  rw [advance, h]

theorem advance_keeps_modelFault {s : State} {f : Fault} (hf : s.modelFault = some f) :
    (advance s).modelFault = some f := by
  rw [advance_of_fault (step_of_modelFault hf), State.recordFault_modelFault, hf, Option.some_or]

theorem advanceBy_keeps_modelFault (k : Nat) {s : State} {f : Fault} (hf : s.modelFault = some f) :
    (advanceBy k s).modelFault = some f := by
  induction k generalizing s with
  | zero => exact hf
  | succ k ih => exact ih (advance_keeps_modelFault hf)

theorem advance_records_fault {s : State} {f : Fault} (hf : s.modelFault = none) (h : step s = .fault f) :
    (advance s).modelFault = some f := by
  rw [advance_of_fault h, State.recordFault_modelFault, hf, Option.none_or]

end Sys2Proof

/-! ### The obligations -/

namespace Sys2Proof.Machine

/-- Settles O9: the acceptance test unfolds to R8's constraints once the default is shown to meet them, and `stepOnce`
looks at the configuration before any turn. -/
theorem configurationAcceptedIffConstraints : Obligations.ConfigurationAcceptedIffConstraints := by
  refine ⟨rfl, fun c => ?_, fun s hf hc => step_of_illegalConfig hf hc⟩
  rw [Config.wellFormed_iff, Config.meetsConstraints_iff]

/-- Settles O5: the step is `hostTurn`, which is `hostOp` of the program's head; then one rule for each form of statement. -/
theorem stepRunsHostTurn : Obligations.StepRunsHostTurn := by
  intro s hf hc hm
  have hstep : step s = hostTurn (s.setTurns s.env.turns.tail) := by
    rw [step_eq_takeTurn hf hc, takeTurn_of_mover_host hm]
  have hhead : ∀ {op rest}, s.env.program = op :: rest →
      step s = hostOp op ((s.setTurns s.env.turns.tail).setProgram rest) := fun h => by
    rw [hstep]
    exact hostTurn_of_cons h
  refine ⟨hstep, fun h => ?_, fun a n rest h hn => ?_, fun a n v rest h hn hv => ?_, fun rest h => ?_,
    fun op rest h hop => ?_⟩
  · rw [hstep]
    exact hostTurn_of_nil h
  · have hread := (hhead h).trans (hostOp_read hn a _)
    exact ⟨hread, fun r d hd => hread.trans (hostRead_of_value hd), fun hu => hread.trans (hostRead_of_unwritten hu)⟩
  · have hwrite := (hhead h).trans (hostOp_write hn hv a _)
    exact ⟨hwrite, hwrite⟩
  · rw [hhead h, hostOp_poll, hostPoll_setProgram, State.setTurns_status]
  · rw [hhead h, hostOp_of_malformed hop]

/-- Settles O8: a recorded fault makes the step stop with it, so `advance` records it again over itself; the rest is an induction
on the number of steps. -/
theorem modelFaultIsSticky : Obligations.ModelFaultIsSticky := by
  refine ⟨fun s f hf => ⟨step_of_modelFault hf, fun k => advanceBy_keeps_modelFault k hf⟩, fun s f hf h => ?_⟩
  have hrec := advance_records_fault hf h
  exact ⟨hrec, fun k => advanceBy_keeps_modelFault k hrec⟩

end Sys2Proof.Machine
end

section
/-! PROOF. The folds of a command (40_limb_reduction.md): the exact sizes, how a run of folds ends in a buffer of the exact size, and
that it never ends with a carry. -/

namespace Sys2Proof.Machine

/-! ### Sizes (40_limb_reduction.md R106, R107) -/

theorem Direction.rIn_pos (d : Direction) : 0 < d.rIn := by cases d <;> decide

theorem Direction.rOut_pos (d : Direction) : 0 < d.rOut := by cases d <;> decide

theorem encSize_mono {m n : Nat} (h : m ≤ n) : encSize m ≤ encSize n :=
  (encSize_le_iff m _).2 ((Nat.pow_le_pow_right (by norm_num) h).trans ((encSize_le_iff n _).1 le_rfl))

theorem decSize_le_self (m : Nat) : decSize m ≤ m :=
  (decSize_le_iff m m).2 (Nat.pow_le_pow_left (by norm_num) m)

/-- 41_encode.md R137: a leading zero costs one output symbol and gives back at least one. -/
theorem add_encSize_le (z m : Nat) : z + encSize m ≤ encSize (z + m) := by
  set k := encSize (z + m) with hk
  have hpow : 58 ^ z * 256 ^ m ≤ 58 ^ k := by
    calc 58 ^ z * 256 ^ m ≤ 256 ^ z * 256 ^ m := Nat.mul_le_mul_right _ (Nat.pow_le_pow_left (by norm_num) z)
      _ = 256 ^ (z + m) := (pow_add 256 z m).symm
      _ ≤ 58 ^ k := (encSize_le_iff _ _).1 hk.ge
  have hz : z ≤ k := (Nat.pow_le_pow_iff_right (by norm_num)).1
    ((Nat.le_mul_of_pos_right _ (Nat.pow_pos (by norm_num))).trans hpow)
  have hm : encSize m ≤ k - z := by
    rw [encSize_le_iff]
    refine Nat.le_of_mul_le_mul_left (c := 58 ^ z) ?_ (Nat.pow_pos (by norm_num))
    rwa [← pow_add, Nat.add_sub_cancel' hz]
  omega

theorem le_encSize (m : Nat) : m ≤ encSize m :=
  (Nat.le_add_right m (encSize 0)).trans (add_encSize_le m 0)

/-- `z` zero symbols and a work buffer for `m` more fit where the whole input's ENC_SIZE does, in either direction. -/
theorem Direction.add_workSize_le (d : Direction) (z m : Nat) : z + d.workSize m ≤ encSize (z + m) := by
  cases d with
  | toBase58 => exact add_encSize_le z m
  | toBytes => exact (Nat.add_le_add_left (decSize_le_self m) z).trans (le_encSize (z + m))

/-- A buffer of the exact size holds every value of `m` symbols. -/
theorem Direction.pow_le_pow_workSize (d : Direction) (m : Nat) : d.rIn ^ m ≤ d.rOut ^ d.workSize m := by
  cases d with
  | toBase58 => exact (encSize_le_iff m _).1 le_rfl
  | toBytes => exact (decSize_le_iff m _).1 le_rfl

/-! ### Symbols, the leading-zero count and the skip (R101, R111, R112) -/

theorem idx_lt {c : Byte} {v : Nat} (h : idx c = some v) : v < 58 := by
  unfold idx at h
  split_ifs at h <;> simp only [Option.some.injEq] at h <;> omega

theorem Direction.digit_lt {d : Direction} {b : Byte} {v : Nat} (h : d.digit b = some v) : v < d.rIn := by
  cases d with
  | toBase58 =>
    obtain rfl : b.toNat = v := by simpa [Direction.digit] using h
    exact b.isLt
  | toBytes => exact idx_lt h

theorem leadZ_le_length (zsym : Byte) (u : List Byte) : leadZ zsym u ≤ u.length := by
  induction u with
  | nil => exact le_rfl
  | cons b u ih =>
    rw [leadZ, List.length_cons]
    split_ifs <;> omega

/-- The skip ends at the first digit that is not 0, if it is told where that is. -/
theorem skip_eq {n : Nat} {ws : List Nat} (hn : n ≤ ws.length) (hz : ∀ k, k < n → ws.getD k 0 = 0)
    (htop : n < ws.length → ws.getD n 0 ≠ 0) : skip ws = n := by
  induction ws generalizing n with
  | nil => exact (Nat.le_zero.1 hn).symm
  | cons w ws ih =>
    cases n with
    | zero =>
      have hw : w ≠ 0 := by simpa using htop (by simp)
      rw [skip, if_neg hw]
    | succ n =>
      have hw : w = 0 := by simpa using hz 0 (by omega)
      have hrest : skip ws = n := ih (by simpa using hn) (fun k hk => by simpa using hz (k + 1) (by omega))
        (fun h => by simpa using htop (by simpa using h))
      rw [skip, if_pos hw, hrest]

/-! ### The folds (R104, R108, R110) -/

/-- The loop leaves `p` where it stopped, at -1 or at a position it has not passed. -/
theorem foldLoop_position (rIn rOut : Nat) : ∀ (p : Nat) (c : Chain), c.p = (p : Int) - 1 →
    -1 ≤ (foldLoop rIn rOut p c).p ∧ (foldLoop rIn rOut p c).p < p := by
  intro p
  induction p with
  | zero => intro c h; simp [foldLoop, h]
  | succ p ih =>
    intro c h
    rw [foldLoop]
    split_ifs
    · have := ih { c with
        work := c.work.set p (limbStep rIn rOut (c.work.getD p 0) c.carry).1
        carry := (limbStep rIn rOut (c.work.getD p 0) c.carry).2
        t := limbIntermediate rIn (c.work.getD p 0) c.carry
        i := c.i + 1
        p := (p : Int) - 1 } rfl
      push_cast
      omega
    · push_cast at h ⊢
      omega

theorem pushDigit_position (rIn rOut v : Nat) (c : Chain) :
    -1 ≤ (pushDigit rIn rOut v c).p ∧ (pushDigit rIn rOut v c).p < c.work.length :=
  foldLoop_position rIn rOut _ _ rfl

/-- The work buffer after the folds of the digits `ds`: settled, its position within it, and holding their value. -/
structure Chain.Folded (d : Direction) (size : Nat) (ds : List Nat) (c : Chain) : Prop where
  settled : c.Settled d.rOut size
  positionLow : -1 ≤ c.p
  positionHigh : c.p < (size : Int)
  digits : ∀ x ∈ ds, x < d.rIn
  value : valueR d.rOut c.work = valueR d.rIn ds

theorem Chain.cleared_folded (d : Direction) (size : Nat) : (Chain.cleared size).Folded d size [] where
  settled := Chain.cleared_settled d.rOut_pos size
  positionLow := by simp only [Chain.cleared]; omega
  positionHigh := by simp only [Chain.cleared]; omega
  digits := by simp
  value := valueR_replicate_zero d.rOut size

/-- The skip of a settled buffer ends at the high-water mark (R110, R112). -/
theorem Chain.Settled.skip_work {rOut size : Nat} {c : Chain} (h : c.Settled rOut size) : skip c.work = size - c.length := by
  obtain ⟨hwork, -, hlen, hzeros, htop⟩ := h
  exact skip_eq (by omega) (fun k hk => hzeros k (by omega)) (fun hlt => htop (by omega))

/-- R108: while the buffer can hold one more digit the fold leaves no carry. -/
theorem pushDigit_carry_eq_zero {d : Direction} {size v : Nat} {ds : List Nat} {c : Chain} (h : c.Folded d size ds)
    (hv : v < d.rIn) (hsize : d.rIn ^ (ds.length + 1) ≤ d.rOut ^ size) : (pushDigit d.rIn d.rOut v c).carry = 0 := by
  obtain ⟨hvalue, -, -⟩ := pushDigit_spec d.rOut_pos d.rIn_pos h.settled v
  have hlt : valueR d.rIn (ds ++ [v]) < d.rIn ^ (ds.length + 1) := by
    simpa using valueR_lt (r := d.rIn) (ds := ds ++ [v]) (by simpa [or_imp, forall_and] using ⟨h.digits, hv⟩)
  rw [h.value, ← valueR_append_singleton] at hvalue
  by_contra hcarry
  have := Nat.le_mul_of_pos_left (d.rOut ^ size) (Nat.pos_of_ne_zero hcarry)
  omega

theorem pushDigit_folded {d : Direction} {size v : Nat} {ds : List Nat} {c : Chain} (h : c.Folded d size ds)
    (hv : v < d.rIn) (hcarry : (pushDigit d.rIn d.rOut v c).carry = 0) :
    ({ pushDigit d.rIn d.rOut v c with length := (pushDigit d.rIn d.rOut v c).i } : Chain).Folded d size (ds ++ [v]) := by
  obtain ⟨hvalue, -, hsettled⟩ := pushDigit_spec d.rOut_pos d.rIn_pos h.settled v
  obtain ⟨hlow, hhigh⟩ := pushDigit_position d.rIn d.rOut v c
  refine ⟨hsettled hcarry, hlow, h.settled.workLength ▸ hhigh, by simpa [or_imp, forall_and] using ⟨h.digits, hv⟩, ?_⟩
  rw [valueR_append_singleton, ← h.value]
  simpa [hcarry] using hvalue

/-- How the folds of the symbols `bs` end in a buffer that can hold them all: done, with their digits folded, or at an invalid
character; never with a carry (R108). -/
theorem foldSymbols_folded {d : Direction} {size j : Nat} {bs : List Byte} {ds : List Nat} {c : Chain}
    (h : c.Folded d size ds) (hsize : d.rIn ^ (ds.length + bs.length) ≤ d.rOut ^ size) :
    ((foldSymbols d j bs c).1 = .done ∧ (foldSymbols d j bs c).2.Folded d size (ds ++ bs.filterMap d.digit)) ∨
    (∃ i ds', (foldSymbols d j bs c).1 = .invalidCharacter i ∧ (foldSymbols d j bs c).2.Folded d size ds') := by
  induction bs generalizing j ds c with
  | nil => exact .inl ⟨rfl, by simpa [foldSymbols] using h⟩
  | cons b bs ih =>
    rw [foldSymbols]
    cases hb : d.digit b with
    | none => exact .inr ⟨j, ds, rfl, h⟩
    | some v =>
      have hv := Direction.digit_lt hb
      have hcarry := pushDigit_carry_eq_zero h hv
        ((Nat.pow_le_pow_right d.rIn_pos (by simp)).trans hsize)
      have hnext := ih (j := j + 1) (pushDigit_folded h hv hcarry)
        (by simpa [Nat.add_assoc, Nat.add_comm 1] using hsize)
      simpa [hcarry, hb] using hnext

/-- `foldSymbols_folded` for a whole command (41_encode.md R131 to R133, 42_decode.md R151 to R154). -/
theorem foldInput_folded (d : Direction) (u : List Byte) :
    ((foldInput d u).1 = .done ∧
      (foldInput d u).2.Folded d (d.workSize (u.length - leadZ d.zeroIn u)) (significantDigits d u)) ∨
    (∃ i ds, (foldInput d u).1 = .invalidCharacter i ∧
      (foldInput d u).2.Folded d (d.workSize (u.length - leadZ d.zeroIn u)) ds) :=
  foldSymbols_folded (Chain.cleared_folded d _) (by simpa using d.pow_le_pow_workSize _)

end Sys2Proof.Machine
end

section
/-! PROOF. Effects (43_control.md, 70_reset_and_hazards.md): what a completion and the host's turn can do to the block, and what they
leave. -/

namespace Sys2Proof.Machine

/-! ### Completions -/

theorem convert_of_out_of_range {d : Direction} {s : State} (hn : s.cfg.inCap < s.inLen.toNat) :
    convert d s = .next (s.completeError .lenRange s.inLen) := by
  rw [convert, if_pos hn]

theorem convert_of_unwritten {d : Direction} {s : State} (hn : s.inLen.toNat ≤ s.cfg.inCap)
    (hu : s.inWin.readFrom 0 s.inLen.toNat = none) : convert d s = .fault .uninitRead := by
  rw [convert, if_neg (not_lt.2 hn), hu]

theorem convert_of_written {d : Direction} {s : State} {u : List Byte} (hn : s.inLen.toNat ≤ s.cfg.inCap)
    (hu : s.inWin.readFrom 0 s.inLen.toNat = some u) : convert d s = .next (s.convertInput d u) := by
  rw [convert, if_neg (not_lt.2 hn), hu]

theorem exec_nop (s : State) : exec .nop s = .next s.completeOk := rfl

theorem exec_encode (s : State) : exec .encode s = convert .toBase58 s := rfl

theorem exec_decode (s : State) : exec .decode s = convert .toBytes s := rfl

theorem exec_clrhzd (s : State) : exec .clrhzd s = .next { s with status := s.status.hazardCleared }.completeOk := rfl

/-- A conversion that goes on raises LEN_RANGE before the datapath runs, or converts written input. -/
theorem convert_effect {d : Direction} {s t : State} (h : convert d s = .next t) :
    (∃ e info, e ≠ .carryOverflow ∧ t = s.completeError e info) ∨
    (∃ d u, s.inLen.toNat ≤ s.cfg.inCap ∧ s.inWin.readFrom 0 s.inLen.toNat = some u ∧ t = s.convertInput d u) := by
  rcases convert_next h with ⟨-, rfl⟩ | ⟨hn, u, hu, rfl⟩
  · exact .inl ⟨_, _, by decide, rfl⟩
  · exact .inr ⟨d, u, hn, hu, rfl⟩

/-- A completion that goes on, by its effect: NOP, CLRHZD, an error before the datapath runs, or a conversion of written input. -/
theorem complete_effect {s t : State} (h : complete s = .next t) :
    t = s.completeOk ∨
    (decodeCmd s.cw = .ok .clrhzd ∧ t = { s with status := s.status.hazardCleared }.completeOk) ∨
    (∃ e info, e ≠ .carryOverflow ∧ t = s.completeError e info) ∨
    (∃ d u, s.inLen.toNat ≤ s.cfg.inCap ∧ s.inWin.readFrom 0 s.inLen.toNat = some u ∧ t = s.convertInput d u) := by
  rcases complete_next h with ⟨i, hi, hexec⟩ | ⟨r, -, rfl⟩
  · cases i with
    | nop => exact .inl (by simpa [exec_nop] using hexec.symm)
    | encode => exact .inr (.inr (convert_effect hexec))
    | decode => exact .inr (.inr (convert_effect hexec))
    | clrhzd => exact .inr (.inl ⟨hi, by simpa [exec_clrhzd] using hexec.symm⟩)
  · exact .inr (.inr (.inl ⟨_, _, by decide, rfl⟩))

/-- What a completion does not touch: the configuration, the inputs, the latched word, LASTOP, the fault record and the host's
side (43_control.md R175 to R179). -/
theorem complete_frame {s t : State} (h : complete s = .next t) :
    t = { s with
      phase := .idle, outLen := t.outLen, zcount := t.zcount, diglen := t.diglen, errInfo := t.errInfo, dp := t.dp,
      outWin := t.outWin,
      status := { s.status with
        busy := false, done := true, err := t.status.err, hzd := t.status.hzd, errcode := t.status.errcode } } := by
  rcases complete_effect h with rfl | ⟨-, rfl⟩ | ⟨e, info, -, rfl⟩ | ⟨d, u, -, -, rfl⟩
  · rfl
  · rfl
  · rfl
  · rcases convertInput_cases d u s with ⟨e, info, dp, -, he⟩ | ⟨c, dp, -, he⟩ <;> rw [he] <;> rfl

theorem convertInput_hzd (d : Direction) (u : List Byte) (s : State) : (s.convertInput d u).status.hzd = s.status.hzd := by
  rcases convertInput_cases d u s with ⟨e, info, dp, -, he⟩ | ⟨c, dp, -, he⟩ <;> rw [he] <;> rfl

/-- R179: the completion of CLRHZD clears HZD, and no other completion touches it. -/
theorem complete_hzd {s t : State} (h : complete s = .next t) :
    (decodeCmd s.cw = .ok .clrhzd ∧ t.status.hzd = false) ∨
    (decodeCmd s.cw ≠ .ok .clrhzd ∧ t.status.hzd = s.status.hzd) := by
  by_cases hcw : decodeCmd s.cw = .ok .clrhzd
  · obtain rfl : { s with status := s.status.hazardCleared }.completeOk = t := by
      simpa [complete, hcw, exec_clrhzd] using h
    exact .inl ⟨hcw, rfl⟩
  refine .inr ⟨hcw, ?_⟩
  rcases complete_effect h with rfl | ⟨hclr, -⟩ | ⟨e, info, -, rfl⟩ | ⟨d, u, -, -, rfl⟩
  · rfl
  · exact absurd hclr hcw
  · rfl
  · exact convertInput_hzd d u s

/-! ### The host's turn -/

/-- What a write reaches depends on the configuration only: nothing, with ERROR, or the register page or the input window, with
OKAY (20_memory.md R56). -/
theorem memWrite_reaches (cfg : Config) (a : Addr) (n : Nat) (v : Word) :
    (∀ s : State, s.cfg = cfg → memWrite a n v s = (.error, s)) ∨
    (∀ s : State, s.cfg = cfg → memWrite a n v s = (.okay, writePage a.toNat v s)) ∨
    (∃ i, ∀ s : State, s.cfg = cfg → memWrite a n v s = (.okay, writeInput i n v s)) := by
  by_cases h2 : n = 2
  · exact .inl fun s _ => by rw [memWrite, if_pos h2]
  cases hreg : regionOf a with
  | registerPage =>
    by_cases hal : n = 4 ∧ aligned a n = true
    · exact .inr (.inl fun s _ => by simp [memWrite, h2, hreg, if_pos hal])
    · exact .inl fun s _ => by simp [memWrite, h2, hreg, if_neg hal]
  | inputWindow =>
    by_cases hal : aligned a n = true ∧ a.toNat - 0x10000 + n ≤ cfg.inCap
    · exact .inr (.inr ⟨a.toNat - 0x10000, fun s hs => by simp [memWrite, h2, hreg, hs, if_pos hal]⟩)
    · exact .inl fun s hs => by simp [memWrite, h2, hreg, hs, if_neg hal]
  | outputWindow => exact .inl fun s _ => by simp [memWrite, h2, hreg]
  | unmapped => exact .inl fun s _ => by simp [memWrite, h2, hreg]

theorem writePage_inLen_of_ne {off : Nat} (h : Reg.atOffset off ≠ some .inLen) (v : Word) (s : State) :
    (writePage off v s).inLen = s.inLen := by
  unfold writePage
  cases hr : Reg.atOffset off with
  | none => rfl
  | some r =>
    cases r with
    | inLen => exact absurd hr h
    | cmd => cases hb : s.status.busy <;> simp
    | _ => rfl

theorem writeInput_inLen (i n : Nat) (v : Word) (s : State) : (writeInput i n v s).inLen = s.inLen := by
  unfold writeInput
  split_ifs <;> rfl

/-- A write at another address leaves IN_LEN (10_state.md R21, R35). -/
theorem memWrite_inLen_of_ne {a : Addr} (ha : a ≠ 0x00018#18) (n : Nat) (v : Word) (s : State) :
    (memWrite a n v s).2.inLen = s.inLen := by
  have hreg : Reg.atOffset a.toNat ≠ some .inLen := by
    intro h
    have hoff : Reg.inLen.offset = a.toNat := by simpa [Reg.atOffset] using List.find?_some h
    exact ha (BitVec.eq_of_toNat_eq hoff.symm)
  rcases memWrite_reaches s.cfg a n v with hw | hw | ⟨i, hw⟩ <;> rw [hw s rfl]
  · exact writePage_inLen_of_ne hreg v s
  · exact writeInput_inLen i n v s

/-- The effects the host's turn can have on the block, the host's side `env` left open: none, a discarded write, an accepted
command, a store to IN_LEN, or one to cells of the input window within its capacity; all but the first by a write. -/
theorem hostTurn_effect {s t : State} (h : hostTurn s = .next t) :
    (∃ env, t = { s with env := env }) ∨
    (∃ a n v rest env, s.env.program = .write a n v :: rest ∧
      ((s.status.busy = true ∧ t = { s.discardWrite with env := env }) ∨
       (s.status.busy = false ∧ t = { s.accept v with env := env }) ∨
       (s.status.busy = false ∧ a = 0x00018#18 ∧ t = { s with inLen := v, env := env }) ∨
       (s.status.busy = false ∧ ∃ i, i + n ≤ s.cfg.inCap ∧
         t = { s with inWin := s.inWin.writeFrom i (lanesOf v n), env := env }))) := by
  rcases hostTurn_next h with hidle | ⟨a, n, v, rest, hp, rfl⟩
  · exact .inl hidle
  have hinLen := memWrite_inLen_of_ne (a := a) (n := n) (v := v) (s := s.setProgram rest)
  rcases memWrite_cases a n v (s.setProgram rest) with
    hw | ⟨hb, hw⟩ | ⟨hb, hw⟩ | ⟨hb, hw⟩ | ⟨hb, i, hi, hw⟩
  · rw [hw]; exact .inl ⟨_, rfl⟩
  · rw [hw]; exact .inr ⟨a, n, v, rest, _, hp, .inl ⟨hb, rfl⟩⟩
  · rw [hw]; exact .inr ⟨a, n, v, rest, _, hp, .inr (.inl ⟨hb, rfl⟩)⟩
  · rw [hw]
    by_cases ha : a = 0x00018#18
    · exact .inr ⟨a, n, v, rest, _, hp, .inr (.inr (.inl ⟨hb, ha, rfl⟩))⟩
    · have hv : v = s.inLen := by simpa [hw] using hinLen ha
      subst hv
      exact .inl ⟨_, rfl⟩
  · rw [hw]; exact .inr ⟨a, n, v, rest, _, hp, .inr (.inr (.inr ⟨hb, i, hi, rfl⟩))⟩

/-- R32, 70_reset_and_hazards.md R230: the host's turn leaves HZD, or sets it by a write while BUSY = 1. -/
theorem hostTurn_hzd {s t : State} (h : hostTurn s = .next t) :
    t.status.hzd = s.status.hzd ∨
    (t.status.hzd = true ∧ s.status.busy = true ∧ ∃ a n v rest, s.env.program = .write a n v :: rest) := by
  rcases hostTurn_effect h with ⟨env, rfl⟩ | ⟨a, n, v, rest, env, hp, ⟨hb, rfl⟩ | ⟨-, rfl⟩ | ⟨-, -, rfl⟩ | ⟨-, i, -, rfl⟩⟩
  · exact .inl rfl
  · exact .inr ⟨rfl, hb, a, n, v, rest, hp⟩
  · exact .inl rfl
  · exact .inl rfl
  · exact .inl rfl

theorem hostTurn_constant {s t : State} (h : hostTurn s = .next t) : t.cfg = s.cfg ∧ t.modelFault = s.modelFault := by
  rcases hostTurn_effect h with ⟨env, rfl⟩ | ⟨a, n, v, rest, env, -, ⟨-, rfl⟩ | ⟨-, rfl⟩ | ⟨-, -, rfl⟩ | ⟨-, i, -, rfl⟩⟩ <;>
    exact ⟨rfl, rfl⟩

theorem State.completes.not_host {s : State} (h : s.completes) : s.mover ≠ .host := by
  rw [h.1]; decide

end Sys2Proof.Machine
end

section
/-! PROOF. The invariant (10_state.md R28, R36 to R44): every operation of the block keeps it, so every step does. -/

namespace Sys2Proof.Machine

/-! ### What keeps the invariant -/

/-- The ranges of the hidden registers in a configuration (10_state.md R41, R42), as `State.Inv` has them. -/
structure Datapath.InRange (cfg : Config) (d : Datapath) : Prop where
  zCap : d.z.toNat ≤ cfg.inCap
  sizeCap : d.size.toNat ≤ cfg.workCap
  lengthSize : d.length.toNat ≤ d.size.toNat
  positionLow : -1 ≤ d.p
  positionHigh : d.p < (d.size.toNat : Int)
  workSize : d.work.length = d.size.toNat

/-- A register takes a number below 2^32 whole. -/
theorem toNat_ofNat_word {n : Nat} (h : n < 2 ^ 32) : (BitVec.ofNat 32 n).toNat = n := by
  rw [BitVec.toNat_ofNat, Nat.mod_eq_of_lt h]

namespace State.Inv

variable {s : State} (h : s.Inv)
include h

theorem withEnv (env : Env) : ({ s with env := env } : State).Inv := { h with }

theorem setTurns (ts : List Turn) : (s.setTurns ts).Inv := h.withEnv _

theorem discardWrite : s.discardWrite.Inv := { h with }

theorem accept (v : Word) : (s.accept v).Inv :=
  { h with
    phaseBusy := by simp
    busyDone := by simp
    errDone := by simp
    errcodeErr := by simp
    errcodeRaised := by simp
    errInfoZero := by simp
    errNoResult := by simp }

theorem withInLen (v : Word) : ({ s with inLen := v } : State).Inv := { h with }

theorem writeInput {i : Nat} {bs : List Byte} (hi : i + bs.length ≤ s.cfg.inCap) :
    ({ s with inWin := s.inWin.writeFrom i bs } : State).Inv :=
  { h with
    inWf := Memory.writeFrom_wf h.inWf i bs
    inBound := fun c hc => by
      rcases Memory.mem_writeFrom hc with ⟨-, hlt⟩ | hmem
      · exact hlt.trans_le hi
      · exact h.inBound c hmem }

theorem hazardCleared : ({ s with status := s.status.hazardCleared } : State).Inv := { h with }

theorem completeOk : s.completeOk.Inv :=
  { h with
    phaseBusy := by simp
    busyDone := by simp
    errDone := by simp
    errcodeErr := by simp
    errcodeRaised := by simp
    errInfoZero := by simp
    errNoResult := by simp }

theorem completeError {e : CmdError} (he : e ≠ .carryOverflow) (info : Word) : (s.completeError e info).Inv :=
  { h with
    phaseBusy := by simp
    busyDone := by simp
    errDone := by simp
    errcodeErr := by cases e <;> simp [CmdError.code]
    errcodeRaised := by cases e <;> simp [CmdError.code] at he ⊢
    errInfoZero := by simp
    errNoResult := by simp
    lengths := by simp
    outLenCap := by simp
    outWritten := by simp }

theorem setDatapath {d : Datapath} (hd : d.InRange s.cfg) : (s.setDatapath d).Inv := { hd, h with }

/-- EMIT and its result keep the invariant when the result is what EMIT wrote and fits the window. The completion touches none of
these fields, so it may come first, and then no error stands. -/
theorem emitResult (herr : s.status.err = false) {d : Direction} {z : Nat} {c : Chain} {a l : Nat}
    (ha : a = (emitted d z c).length) (hl : a = z + l) (hcap : a ≤ s.cfg.outCap) (hword : a < 2 ^ 32) :
    ({ s.emit d z c with
        outLen := BitVec.ofNat 32 a, zcount := BitVec.ofNat 32 z, diglen := BitVec.ofNat 32 l } : State).Inv := by
  have toNat_a := toNat_ofNat_word hword
  have toNat_z := toNat_ofNat_word (n := z) (by omega)
  have toNat_l := toNat_ofNat_word (n := l) (by omega)
  exact { h with
    outWf := Memory.writeFrom_wf h.outWf 0 _
    outBound := fun x hx => by
      rcases Memory.mem_writeFrom hx with ⟨-, hlt⟩ | hmem
      · rw [Nat.zero_add, ← ha] at hlt
        exact hlt.trans_le hcap
      · exact h.outBound x hmem
    errNoResult := by simp [herr]
    lengths := by rw [toNat_a, toNat_z, toNat_l, hl]
    outLenCap := by rwa [toNat_a]
    outWritten := fun k hk => by
      rw [toNat_a, ha] at hk
      simp [Memory.get_writeFrom, hk] }

end State.Inv

/-- What a legal configuration and an input within IN_CAP give each register its range by. -/
theorem Config.fits {cfg : Config} (hc : cfg.wellFormed = true) (d : Direction) {u : List Byte} (hu : u.length ≤ cfg.inCap) :
    cfg.inCap ≤ 47988 ∧ cfg.outCap ≤ 65536 ∧ cfg.workCap ≤ 65536 ∧
    leadZ d.zeroIn u + d.workSize (u.length - leadZ d.zeroIn u) ≤ cfg.outCap ∧
    leadZ d.zeroIn u + d.workSize (u.length - leadZ d.zeroIn u) ≤ cfg.workCap := by
  obtain ⟨-, hin, hencOut, hout, hencWork, hwork⟩ := cfg.meetsConstraints_iff.1 (cfg.wellFormed_iff.1 hc)
  have hz := leadZ_le_length d.zeroIn u
  have hsize := d.add_workSize_le (leadZ d.zeroIn u) (u.length - leadZ d.zeroIn u)
  rw [Nat.add_sub_cancel' hz] at hsize
  have := encSize_mono hu
  omega

theorem Chain.Folded.latch_inRange {d : Direction} {size : Nat} {ds : List Nat} {c : Chain} (h : c.Folded d size ds)
    {cfg : Config} {z : Nat} (hz : z ≤ cfg.inCap) (hz' : z < 2 ^ 32) (hsize : size ≤ cfg.workCap) (hsize' : size < 2 ^ 32) :
    (c.latch z size).InRange cfg := by
  have hlen := h.settled.lengthLe
  have eSize : (c.latch z size).size.toNat = size := toNat_ofNat_word hsize'
  have eLength : (c.latch z size).length.toNat = c.length := toNat_ofNat_word (by omega)
  have eZ : (c.latch z size).z.toNat = z := toNat_ofNat_word hz'
  constructor
  · rwa [eZ]
  · rwa [eSize]
  · rwa [eSize, eLength]
  · exact h.positionLow
  · rw [eSize]; exact h.positionHigh
  · rw [eSize, ← h.settled.workLength]; simp [Chain.latch]

/-- A conversion of written input within IN_CAP keeps the invariant. -/
theorem State.Inv.convertInput {s : State} (h : s.Inv) (hc : s.cfg.wellFormed = true) (d : Direction) {u : List Byte}
    (hu : u.length ≤ s.cfg.inCap) : (s.convertInput d u).Inv := by
  obtain ⟨hin, hout, hwork, hfitOut, hfitWork⟩ := Config.fits hc d hu
  have hz := leadZ_le_length d.zeroIn u
  have hfold := foldInput_folded d u
  unfold State.convertInput
  set z := leadZ d.zeroIn u
  set size := d.workSize (u.length - z)
  have hlatch : ∀ {ds : List Nat} {c : Chain}, c.Folded d size ds → (s.setDatapath (c.latch z size)).Inv := fun hf =>
    h.setDatapath (hf.latch_inRange (by omega) (by omega) (by omega) (by omega))
  rcases hfold with ⟨hend, hf⟩ | ⟨i, ds, hend, hf⟩
  · rw [← Prod.mk.eta (p := foldInput d u), hend]
    have hskip := hf.settled.skip_work
    have hlen := hf.settled.lengthLe
    have hws := hf.settled.workLength
    refine (hlatch hf).completeOk.emitResult rfl ?_ ?_ ?_ ?_
    · simp [emitted]; omega
    · omega
    · rw [State.completeOk_cfg, State.setDatapath_cfg]; omega
    · omega
  · rw [← Prod.mk.eta (p := foldInput d u), hend]
    exact (hlatch hf).completeError (by decide) _

/-! ### Every step keeps the invariant -/

theorem hostTurn_keeps_inv {s t : State} (h : s.Inv) (hstep : hostTurn s = .next t) : t.Inv := by
  rcases hostTurn_effect hstep with ⟨env, rfl⟩ | ⟨a, n, v, rest, env, -, ⟨-, rfl⟩ | ⟨-, rfl⟩ | ⟨-, -, rfl⟩ | ⟨-, i, hi, rfl⟩⟩
  · exact h.withEnv env
  · exact h.discardWrite.withEnv env
  · exact (h.accept v).withEnv env
  · exact (h.withInLen v).withEnv env
  · exact (h.writeInput (by simpa [lanesOf] using hi)).withEnv env

theorem complete_keeps_inv {s t : State} (h : s.Inv) (hc : s.cfg.wellFormed = true) (hstep : complete s = .next t) : t.Inv := by
  rcases complete_effect hstep with rfl | ⟨-, rfl⟩ | ⟨e, info, he, rfl⟩ | ⟨d, u, hn, hu, rfl⟩
  · exact h.completeOk
  · exact h.hazardCleared.completeOk
  · exact h.completeError he info
  · obtain ⟨hlen, -⟩ := Memory.readFrom_eq_some.1 hu
    exact h.convertInput hc d (hlen.trans_le hn)

theorem resetWith_inv (cfg : Config) : (State.resetWith cfg).Inv where
  inWf := .nil
  inBound := by simp [State.resetWith]
  outWf := .nil
  outBound := by simp [State.resetWith]
  phaseBusy := by simp [State.resetWith, Status.reset]
  busyDone := by simp [State.resetWith, Status.reset]
  errDone := by simp [State.resetWith, Status.reset]
  errcodeErr := by simp [State.resetWith, Status.reset]
  errcodeRaised := by simp [State.resetWith, Status.reset]
  errInfoZero := by simp [State.resetWith, Status.reset]
  errNoResult := by simp [State.resetWith, Status.reset]
  lengths := rfl
  outLenCap := Nat.zero_le _
  outWritten := by simp [State.resetWith]
  zCap := Nat.zero_le _
  sizeCap := Nat.zero_le _
  lengthSize := le_rfl
  positionLow := le_rfl
  positionHigh := neg_one_lt_zero
  workSize := rfl

theorem resetBlock_inv (s : State) : s.resetBlock.Inv :=
  { (resetWith_inv s.cfg) with }

/-- Settles O29: each move keeps the invariant; the conversions do because their folds leave the work buffer settled, with no carry,
within the exact size (`foldInput_folded`), and that size fits both the work buffer and the output window (`Config.fits`). -/
theorem stepKeepsInvariant : Obligations.StepKeepsInvariant := by
  intro s t h hstep
  obtain ⟨-, hc, ⟨-, hhost⟩ | ⟨-, hcomplete⟩ | ⟨-, -, rfl⟩ | ⟨-, rfl⟩⟩ := step_next hstep
  · exact hostTurn_keeps_inv (h.setTurns _) hhost
  · exact complete_keeps_inv (h.setTurns s.env.turns.tail) hc hcomplete
  · exact h.setTurns _
  · exact resetBlock_inv _

end Sys2Proof.Machine
end

section
/-! PROOF. Hidden state (10_state.md R46 to R48): no step lets it be seen. -/

namespace Sys2Proof.Machine

/-- The state with other hidden registers and another latched word. -/
def State.withHidden (dp : Datapath) (cw : Word) (s : State) : State := { s with dp := dp, cw := cw }

theorem visibleEq_withHidden {dp : Datapath} {cw : Word} {s : State} (h : s.status.busy = true → s.cw = cw) :
    VisibleEq s (s.withHidden dp cw) :=
  ⟨rfl, rfl, rfl, rfl, rfl, rfl, rfl, rfl, h, rfl, rfl, rfl, rfl⟩

theorem visibleEq_refl (s : State) : VisibleEq s s := visibleEq_withHidden (dp := s.dp) fun _ => rfl

/-- Two states look alike exactly when one is the other with other hidden state. -/
theorem visibleEq_iff {s s' : State} :
    VisibleEq s s' ↔ (s.status.busy = true → s.cw = s'.cw) ∧ s' = s.withHidden s'.dp s'.cw := by
  constructor
  · rintro ⟨hcfg, hstatus, hinLen, houtLen, hzcount, hdiglen, herrInfo, hphase, hcw, hinWin, houtWin, hfault, henv⟩
    refine ⟨hcw, ?_⟩
    rw [State.withHidden, hcfg, hstatus, hinLen, houtLen, hzcount, hdiglen, herrInfo, hphase, hinWin, houtWin, hfault, henv]
  · rintro ⟨hcw, h⟩
    rw [h]
    exact visibleEq_withHidden hcw

/-- The host port reads no hidden state. -/
theorem memRead_withHidden (a : Addr) (n : Nat) (dp : Datapath) (cw : Word) (s : State) :
    memRead a n (s.withHidden dp cw) = memRead a n s := rfl

@[simp] theorem State.withHidden_status (dp : Datapath) (cw : Word) (s : State) :
    (s.withHidden dp cw).status = s.status := rfl

@[simp] theorem State.withHidden_cw (dp : Datapath) (cw : Word) (s : State) : (s.withHidden dp cw).cw = cw := rfl

@[simp] theorem State.withHidden_env (dp : Datapath) (cw : Word) (s : State) : (s.withHidden dp cw).env = s.env := rfl

theorem visibleEq_ite {c : Prop} [Decidable c] {s s' t t' : State} (hs : VisibleEq s s') (ht : VisibleEq t t') :
    VisibleEq (if c then s else t) (if c then s' else t') := by
  split_ifs
  · exact hs
  · exact ht

theorem VisibleEq.respond {s s' : State} (h : VisibleEq s s') (r : Response) : VisibleEq (s.respond r) (s'.respond r) := by
  obtain ⟨hcw, e⟩ := visibleEq_iff.1 h
  rw [e]
  exact visibleEq_withHidden (s := s.respond r) hcw

section

variable {dp : Datapath} {cw : Word} {s : State} (h : s.status.busy = true → s.cw = cw)
include h

theorem hostRead_withHidden (a : Addr) (n : Nat) : SameOutcome (hostRead a n s) (hostRead a n (s.withHidden dp cw)) := by
  rw [hostRead, hostRead, memRead_withHidden]
  cases memRead a n s with
  | value r d => exact visibleEq_withHidden (s := s.respond (.read r d)) h
  | unspecified k => exact visibleEq_withHidden (s := (s.respond (.read .okay (drawnValue k s))).drawn) h
  | unwritten => rfl

theorem writePage_withHidden (off : Nat) (v : Word) :
    VisibleEq (writePage off v s) (writePage off v (s.withHidden dp cw)) := by
  rw [writePage, writePage]
  cases Reg.atOffset off with
  | none => exact visibleEq_withHidden h
  | some r =>
    cases r with
    | cmd => exact visibleEq_ite (visibleEq_withHidden (s := s.discardWrite) h) (visibleEq_withHidden fun _ => rfl)
    | inLen =>
      exact visibleEq_ite (visibleEq_withHidden (s := s.discardWrite) h)
        (visibleEq_withHidden (s := { s with inLen := v }) h)
    | _ => exact visibleEq_withHidden h

theorem writeInput_withHidden (i n : Nat) (v : Word) :
    VisibleEq (writeInput i n v s) (writeInput i n v (s.withHidden dp cw)) :=
  visibleEq_ite (visibleEq_withHidden (s := s.discardWrite) h)
    (visibleEq_withHidden (s := { s with inWin := s.inWin.writeFrom i (lanesOf v n) }) h)

theorem hostWrite_withHidden (a : Addr) (n : Nat) (v : Word) :
    SameOutcome (hostWrite a n v s) (hostWrite a n v (s.withHidden dp cw)) := by
  rw [hostWrite, hostWrite]
  rcases memWrite_reaches s.cfg a n v with hw | hw | ⟨i, hw⟩ <;> rw [hw s rfl, hw (s.withHidden dp cw) rfl]
  · exact (visibleEq_withHidden h).respond _
  · exact (writePage_withHidden h a.toNat v).respond _
  · exact (writeInput_withHidden h i n v).respond _

theorem hostOp_withHidden (op : HostOp) : SameOutcome (hostOp op s) (hostOp op (s.withHidden dp cw)) := by
  cases hop : op.wellFormed with
  | false => rw [hostOp_of_malformed hop, hostOp_of_malformed hop]; rfl
  | true =>
    unfold hostOp
    rw [if_pos hop, if_pos hop]
    cases op with
    | read a n => exact hostRead_withHidden h a n
    | write a n v => exact hostWrite_withHidden h a n v
    | poll =>
      dsimp only
      rw [hostPoll, hostPoll, State.withHidden_status]
      split_ifs
      · exact hostRead_withHidden (s := s.setProgram (.poll :: s.env.program)) h statusAddr 4
      · exact hostRead_withHidden h statusAddr 4

theorem hostTurn_withHidden : SameOutcome (hostTurn s) (hostTurn (s.withHidden dp cw)) := by
  rw [hostTurn, hostTurn, State.withHidden_env]
  cases s.env.program with
  | nil => exact visibleEq_withHidden h
  | cons op rest => exact hostOp_withHidden (s := s.setProgram rest) h op

end

/-- A conversion sets the hidden registers before it uses them. -/
theorem convertInput_withHidden (d : Direction) (u : List Byte) (dp : Datapath) (s : State) :
    (s.withHidden dp s.cw).convertInput d u = s.convertInput d u := rfl

theorem convert_withHidden (d : Direction) (dp : Datapath) (s : State) :
    SameOutcome (convert d s) (convert d (s.withHidden dp s.cw)) := by
  by_cases hn : s.cfg.inCap < s.inLen.toNat
  · rw [convert_of_out_of_range hn, convert_of_out_of_range (s := s.withHidden dp s.cw) hn]
    exact visibleEq_withHidden (s := s.completeError .lenRange s.inLen) fun _ => rfl
  have hn := not_lt.1 hn
  cases hu : s.inWin.readFrom 0 s.inLen.toNat with
  | none =>
    rw [convert_of_unwritten hn hu, convert_of_unwritten (s := s.withHidden dp s.cw) hn hu]
    rfl
  | some u =>
    rw [convert_of_written hn hu, convert_of_written (s := s.withHidden dp s.cw) hn hu, convertInput_withHidden]
    exact visibleEq_refl _

theorem exec_withHidden (i : Instr) (dp : Datapath) (s : State) :
    SameOutcome (exec i s) (exec i (s.withHidden dp s.cw)) := by
  cases i with
  | nop => exact visibleEq_withHidden (s := s.completeOk) fun _ => rfl
  | encode => exact convert_withHidden .toBase58 dp s
  | decode => exact convert_withHidden .toBytes dp s
  | clrhzd =>
    exact visibleEq_withHidden (s := { s with status := s.status.hazardCleared }.completeOk) fun _ => rfl

theorem complete_withHidden (dp : Datapath) (s : State) : SameOutcome (complete s) (complete (s.withHidden dp s.cw)) := by
  rw [complete, complete, State.withHidden_cw]
  cases decodeCmd s.cw with
  | ok i => exact exec_withHidden i dp s
  | error r => exact visibleEq_withHidden (s := s.completeError .illegalCmd s.cw) fun _ => rfl

theorem sequencerTurn_withHidden {dp : Datapath} {cw : Word} {s : State} (h : s.status.busy = true → s.cw = cw) :
    SameOutcome (sequencerTurn s) (sequencerTurn (s.withHidden dp cw)) := by
  rw [sequencerTurn, sequencerTurn, State.withHidden_status]
  split_ifs with hb
  · rw [← h hb]
    exact complete_withHidden dp s
  · exact visibleEq_withHidden h

theorem takeTurn_withHidden {dp : Datapath} {cw : Word} {s : State} (h : s.status.busy = true → s.cw = cw) :
    SameOutcome (takeTurn s) (takeTurn (s.withHidden dp cw)) := by
  rw [takeTurn, takeTurn, State.withHidden_env]
  cases s.env.turns with
  | nil =>
    dsimp only
    rw [State.withHidden_status]
    split_ifs with hb
    · rw [← h hb]
      exact complete_withHidden dp s
    · exact hostTurn_withHidden h
  | cons turn ts =>
    cases turn with
    | host => exact hostTurn_withHidden (s := s.setTurns ts) h
    | sequencer => exact sequencerTurn_withHidden (s := s.setTurns ts) h
    | reset => exact visibleEq_refl _

/-- Settles O33: one state is the other with other hidden state, no host access looks at that, and a command sets the datapath before
it uses it. -/
theorem hiddenStateIsUnobservable : Obligations.HiddenStateIsUnobservable := by
  intro s s' hvis
  obtain ⟨hcw, e⟩ := visibleEq_iff.1 hvis
  rw [e]
  cases hf : s.modelFault with
  | some f =>
    rw [step_of_modelFault hf, step_of_modelFault (s := s.withHidden s'.dp s'.cw) hf]
    rfl
  | none =>
    cases hc : s.cfg.wellFormed with
    | false =>
      rw [step_of_illegalConfig hf hc, step_of_illegalConfig (s := s.withHidden s'.dp s'.cw) hf hc]
      rfl
    | true =>
      rw [step_eq_takeTurn hf hc, step_eq_takeTurn (s := s.withHidden s'.dp s'.cw) hf hc]
      exact takeTurn_withHidden hcw

end Sys2Proof.Machine
end

section
/-! PROOF. Rules of every step (10_state.md R24 to R26, R32, R35, R43): HZD, the inputs, the configuration and the fault record. -/

namespace Sys2Proof.Machine

/-- What a step does to HZD: nothing, or a clear by reset or CLRHZD, or a set by a write while BUSY = 1. -/
theorem step_hzd {s t : State} (hstep : step s = .next t) :
    (t.status.hzd = s.status.hzd ∧ ¬ (s.completes ∧ decodeCmd s.cw = .ok .clrhzd)) ∨
    (t.status.hzd = false ∧ (s.mover = .reset ∨ (s.completes ∧ decodeCmd s.cw = .ok .clrhzd))) ∨
    (t.status.hzd = true ∧ s.mover = .host ∧ s.status.busy = true ∧
      ∃ a n v rest, s.env.program = .write a n v :: rest) := by
  obtain ⟨-, -, ⟨hm, hhost⟩ | ⟨hcomp, hcomplete⟩ | ⟨-, hb, rfl⟩ | ⟨hm, rfl⟩⟩ := step_next hstep
  · rcases hostTurn_hzd hhost with hsame | ⟨hset, hb, hwrite⟩
    · exact .inl ⟨hsame, fun hclr => hclr.1.not_host hm⟩
    · exact .inr (.inr ⟨hset, hm, hb, hwrite⟩)
  · rcases complete_hzd hcomplete with ⟨hclr, hzd⟩ | ⟨hother, hsame⟩
    · exact .inr (.inl ⟨hzd, .inr ⟨hcomp, hclr⟩⟩)
    · exact .inl ⟨hsame, fun hclr => hother hclr.2⟩
  · exact .inl ⟨rfl, fun hclr => by simp [hclr.1.2] at hb⟩
  · exact .inr (.inl ⟨rfl, .inl hm⟩)

/-- Settles O22: by the three things a step can do to HZD. -/
theorem hazardFlagIsSticky : Obligations.HazardFlagIsSticky := by
  intro s t hstep
  rcases step_hzd hstep with ⟨hsame, hno⟩ | ⟨hclear, hwhy⟩ | ⟨hset, hm, hb, hwrite⟩
  · rw [hsame]
    exact ⟨fun h h' => by simp [h] at h', fun h h' => by simp [h] at h', fun hcomp hclr => absurd ⟨hcomp, hclr⟩ hno⟩
  · exact ⟨fun _ _ => hwhy, by simp [hclear], fun _ _ => hclear⟩
  · exact ⟨by simp [hset], fun _ _ => ⟨hm, hb, hwrite⟩, fun hcomp => absurd hm hcomp.not_host⟩

/-- Settles O23: by the effects of the host's turn; a completion leaves the inputs (`complete_frame`). -/
theorem onlyTheHostWritesInputs : Obligations.OnlyTheHostWritesInputs := by
  intro s t hstep hchange
  obtain ⟨-, -, ⟨hm, hhost⟩ | ⟨-, hcomplete⟩ | ⟨-, -, rfl⟩ | ⟨hm, -⟩⟩ := step_next hstep
  · rcases hostTurn_effect hhost with
      ⟨env, rfl⟩ | ⟨a, n, v, rest, env, hp, ⟨-, rfl⟩ | ⟨-, rfl⟩ | ⟨hb, ha, rfl⟩ | ⟨hb, i, -, rfl⟩⟩
    · simp at hchange
    · simp at hchange
    · simp at hchange
    · exact .inr ⟨hm, hb, a, n, v, rest, hp, .inr ⟨ha, rfl, rfl⟩⟩
    · exact .inr ⟨hm, hb, a, n, v, rest, hp, .inl rfl⟩
  · rw [complete_frame hcomplete] at hchange
    simp at hchange
  · simp at hchange
  · exact .inl hm

/-- Settles O27: by the frames of the host's turn and of a completion. -/
theorem configurationIsConstant : Obligations.ConfigurationIsConstant := by
  intro s t hstep
  obtain ⟨-, -, ⟨-, hhost⟩ | ⟨-, hcomplete⟩ | ⟨-, -, rfl⟩ | ⟨-, rfl⟩⟩ := step_next hstep
  · exact hostTurn_constant (s := s.setTurns s.env.turns.tail) hhost
  · rw [complete_frame hcomplete]
    exact ⟨rfl, rfl⟩
  · exact ⟨rfl, rfl⟩
  · exact ⟨rfl, rfl⟩

end Sys2Proof.Machine
end

section
/-! PROOF. Registers and input cells as the host reads them (10_state.md R21 to R35, R46, R47). -/

namespace Sys2Proof.Machine

/-! ### Unwritten input cells (R47) -/

theorem hostRead_input_unwritten {s : State} {k n : Nat} (hn : n = 1 ∨ (n = 4 ∧ k % 4 = 0)) (hcap : k + n ≤ s.cfg.inCap)
    (hk : k < 0x10000) (hu : ∃ j, j < n ∧ s.inWin.get (k + j) = none) :
    hostRead (BitVec.ofNat 18 (0x10000 + k)) n s = .fault .uninitRead := by
  have haddr : (BitVec.ofNat 18 (0x10000 + k)).toNat = 0x10000 + k := by
    rw [BitVec.toNat_ofNat]; omega
  refine hostRead_of_unwritten ?_
  rw [memRead_input (by omega) (by omega) (by omega) (by omega) (by omega), haddr, Nat.add_sub_cancel_left, readWindow,
    Memory.readFrom_eq_none.2 hu]

/-- Settles O44: a read of several cells answers nothing as soon as one of them is unwritten (`Memory.readFrom_eq_none`). -/
theorem unwrittenCellFaults : Obligations.UnwrittenCellFaults := by
  refine ⟨fun s i k hi hn hk hu => ?_, fun s k hcap hk hu => ?_, fun s k hal hcap hk hu => ?_⟩
  · have hnone : s.inWin.readFrom 0 s.inLen.toNat = none := Memory.readFrom_eq_none.2 ⟨k, hk, by simpa using hu⟩
    rcases hi with rfl | rfl
    · exact (exec_encode s).trans (convert_of_unwritten hn hnone)
    · exact (exec_decode s).trans (convert_of_unwritten hn hnone)
  · exact hostRead_input_unwritten (.inl rfl) hcap hk ⟨0, by omega, hu⟩
  · exact hostRead_input_unwritten (.inr ⟨rfl, hal⟩) hcap hk hu

/-! ### Registers (R21 to R28) -/

/-- A 32-bit read at a register's offset answers what the register reads as. -/
theorem memRead_register (r : Reg) (s : State) : memRead (BitVec.ofNat 18 r.offset) 4 s = readReg r s := by
  cases r <;> rfl

theorem memRead_reserved {a : Addr} (h : 0x0002C ≤ a.toNat) (h' : a.toNat < 0x01000) (hal : a.toNat % 4 = 0) (s : State) :
    memRead a 4 s = .value .okay 0#32 := by
  rw [memRead, if_neg (by decide), regionOf_page h']
  dsimp only
  rw [if_pos ⟨rfl, (aligned_iff a 4).2 fun _ => hal⟩, readPage, atOffset_none h]

theorem readResult_of_idle {s : State} (hb : s.status.busy = false) (v : Word) : readResult v s = .value .okay v := by
  simp [readResult, hb]

theorem memWrite_inLen (v : Word) (s : State) :
    memWrite 0x00018#18 4 v s = (.okay, if s.status.busy then s.discardWrite else { s with inLen := v }) := rfl

/-- Settles O11: by the write's and the read's equation. -/
theorem inLenWriteIsStored : Obligations.InLenWriteIsStored := by
  intro s v hb
  exact ⟨by simp [memWrite_inLen, hb], memRead_register .inLen _⟩

/-- Settles O14: each register reads by `memRead_register`, the results because the block is idle. -/
theorem registerReadsOfIdleBlock : Obligations.RegisterReadsOfIdleBlock := by
  intro s hb
  exact ⟨memRead_register .id s, memRead_register .capIn s, memRead_register .capOut s, memRead_register .capWork s,
    memRead_register .cmd s, memRead_register .status s, memRead_register .inLen s,
    (memRead_register .outLen s).trans (readResult_of_idle hb _),
    (memRead_register .zcount s).trans (readResult_of_idle hb _),
    (memRead_register .diglen s).trans (readResult_of_idle hb _),
    (memRead_register .errInfo s).trans (readResult_of_idle hb _), fun a h h' hal => memRead_reserved h h' hal s⟩

/-- A field of STATUS is a field of the concatenation, whose width Lean writes as a sum. -/
theorem Status.extractLsb'_word (st : Status) (start len : Nat) : st.word.extractLsb' start len =
    (0#16 ++ st.lastop ++ st.errcode ++ 0#4 ++ BitVec.ofBool st.hzd ++ BitVec.ofBool st.err ++ BitVec.ofBool st.done
      ++ BitVec.ofBool st.busy).extractLsb' start len := rfl

/-- Settles O15: each field is cut out of the concatenation part by part. -/
theorem statusWordLayout : Obligations.StatusWordLayout := by
  intro st
  simp (disch := omega) only [Status.extractLsb'_word, BitVec.extractLsb'_append_eq_of_le,
    BitVec.extractLsb'_append_eq_of_add_le]
  simp

theorem Status.reset_word : Status.reset.word = 0#32 := by decide

/-- Settles O30: by the definition of the reset state and `memRead_register`. -/
theorem resetValues : Obligations.ResetValues := by
  refine ⟨rfl, fun cfg => ?_⟩
  exact ⟨Status.reset_word, rfl, rfl, rfl, rfl, rfl, rfl, rfl, memRead_register .id _, memRead_register .capIn _,
    memRead_register .capOut _, memRead_register .capWork _, fun k => ⟨rfl, rfl⟩⟩

end Sys2Proof.Machine
end

section
/-! PROOF. The windows and the host port (20_memory.md R53 to R72): what accesses to the windows do, and who can change the
results and the running command. -/

namespace Sys2Proof.Machine

/-! ### Reads of a window (R55, R60) -/

theorem readWindow_of_written {m : Memory} {i n : Nat} {bs : List Byte} (hlen : bs.length = n)
    (hget : ∀ k, k < n → m.get (i + k) = bs[k]?) :
    readWindow m i n = .value .okay (BitVec.ofNat 32 (lanesToNat bs)) := by
  rw [readWindow, Memory.readFrom_eq_some.2 ⟨hlen, hget⟩]

theorem readWindow_of_unwritten {m : Memory} {i n : Nat} (h : ∃ k, k < n ∧ m.get (i + k) = none) :
    readWindow m i n = .unwritten := by
  rw [readWindow, Memory.readFrom_eq_none.2 h]

/-- One written cell reads as its byte, zero-extended. -/
theorem readWindow_byte {m : Memory} {i : Nat} {b : Byte} (h : m.get i = some b) :
    readWindow m i 1 = .value .okay (b.setWidth 32) := by
  have hget : ∀ k, k < 1 → m.get (i + k) = [b][k]? := fun k hk => by
    obtain rfl : k = 0 := by omega
    simpa using h
  rw [readWindow_of_written (n := 1) (bs := [b]) rfl hget]
  simp [lanesToNat]

/-- A word holds up to four byte lanes whole. -/
theorem toNat_ofNat_lanesToNat {bs : List Byte} (h : bs.length ≤ 4) :
    (BitVec.ofNat 32 (lanesToNat bs)).toNat = ∑ k ∈ Finset.range bs.length, (bs.getD k 0#8).toNat * 256 ^ k := by
  have hlt : lanesToNat bs < 2 ^ 32 := (lanesToNat_lt bs).trans_le (Nat.pow_le_pow_right (n := 256) (by omega) h)
  rw [toNat_ofNat_word hlt, lanesToNat_eq_sum]

/-- Written cells read with OKAY as their little-endian number. -/
theorem readWindow_littleEndian {m : Memory} {i n : Nat} {bs : List Byte} (hn : n ≤ 4) (hlen : bs.length = n)
    (hget : ∀ k, k < n → m.get (i + k) = bs[k]?) :
    ∃ d : Word, readWindow m i n = .value .okay d ∧
      d.toNat = ∑ k ∈ Finset.range n, (bs.getD k 0#8).toNat * 256 ^ k := by
  refine ⟨_, readWindow_of_written hlen hget, ?_⟩
  rw [toNat_ofNat_lanesToNat (hlen.trans_le hn), hlen]

/-! ### The cells' addresses (R53) -/

theorem toNat_ofNat_addr {n : Nat} (h : n < 0x40000) : (BitVec.ofNat 18 n : Addr).toNat = n := by
  rw [BitVec.toNat_ofNat, Nat.mod_eq_of_lt h]

theorem memRead_inputCell {s : State} {i n : Nat} (hcap : i + n ≤ s.cfg.inCap) (hi : i < 0x10000)
    (hn : n = 1 ∨ (n = 4 ∧ i % 4 = 0)) :
    memRead (BitVec.ofNat 18 (0x10000 + i)) n s = readWindow s.inWin i n := by
  have haddr : (BitVec.ofNat 18 (0x10000 + i) : Addr).toNat = 0x10000 + i := toNat_ofNat_addr (by omega)
  rw [memRead_input (by omega) (by omega) (by omega) (by omega) (by omega), haddr, Nat.add_sub_cancel_left]

theorem memRead_outputCell_of_idle {s : State} (hb : s.status.busy = false) {i n : Nat} (hcap : i + n ≤ s.cfg.outCap)
    (hi : i < 0x10000) (hn : n = 1 ∨ (n = 4 ∧ i % 4 = 0)) :
    memRead (BitVec.ofNat 18 (0x20000 + i)) n s = readWindow s.outWin i n := by
  have haddr : (BitVec.ofNat 18 (0x20000 + i) : Addr).toNat = 0x20000 + i := toNat_ofNat_addr (by omega)
  rw [memRead_output (by omega) (by omega) (by omega) (by omega) (by omega), haddr, Nat.add_sub_cancel_left, hb]
  rfl

/-- What a read of the input window answers when the window holds other cells. -/
theorem memRead_withInWin {s : State} {a : Addr} {n : Nat} (h : 0x10000 ≤ a.toNat) (h' : a.toNat < 0x20000) (hn : n ≠ 2)
    (hal : n = 4 → a.toNat % 4 = 0) (hcap : a.toNat - 0x10000 + n ≤ s.cfg.inCap) (m : Memory) :
    memRead a n { s with inWin := m } = readWindow m (a.toNat - 0x10000) n :=
  memRead_input h h' hn hal hcap

/-! ### The byte lanes of a word (R60) -/

@[simp] theorem lanesOf_length (v : Word) (n : Nat) : (lanesOf v n).length = n := by simp [lanesOf]

/-- The lanes above lane 0 are the lanes of the word shifted down by a byte. -/
theorem lanesOf_succ (v : Word) (n : Nat) : lanesOf v (n + 1) = v.extractLsb' 0 8 :: lanesOf (v >>> 8) n := by
  have hshift : ∀ k, v.extractLsb' (8 * (k + 1)) 8 = (v >>> 8).extractLsb' (8 * k) 8 := fun k => by
    refine BitVec.eq_of_getLsbD_eq fun j hj => ?_
    simp [hj, show 8 * (k + 1) + j = 8 + (8 * k + j) by omega]
  simp [lanesOf, List.range_succ_eq_map, hshift]

/-- The first `n` lanes hold the low `n` bytes. -/
theorem lanesToNat_lanesOf (v : Word) (n : Nat) : lanesToNat (lanesOf v n) = v.toNat % 256 ^ n := by
  induction n generalizing v with
  | zero => simp [lanesOf, lanesToNat, Nat.mod_one]
  | succ n ih =>
    have hlane : (v.extractLsb' 0 8).toNat = v.toNat % 256 := by simp
    have hrest : (v >>> 8).toNat = v.toNat / 256 := by simp [Nat.shiftRight_eq_div_pow]
    rw [lanesOf_succ, lanesToNat, ih, hlane, hrest, pow_succ', Nat.mod_mul]

theorem ofNat_lanesToNat_lanesOf (v : Word) : BitVec.ofNat 32 (lanesToNat (lanesOf v 4)) = v := by
  have hv : v.toNat < 256 ^ 4 := v.isLt
  rw [lanesToNat_lanesOf, Nat.mod_eq_of_lt hv, BitVec.ofNat_toNat, BitVec.setWidth_eq]

/-! ### Writes to the windows (R56, R57, R60) -/

theorem memWrite_input_of_idle {s : State} (hb : s.status.busy = false) {a : Addr} {n : Nat} (h : 0x10000 ≤ a.toNat)
    (h' : a.toNat < 0x20000) (hn : n ≠ 2) (hal : n = 4 → a.toNat % 4 = 0) (hcap : a.toNat - 0x10000 + n ≤ s.cfg.inCap)
    (v : Word) :
    memWrite a n v s = (.okay, { s with inWin := s.inWin.writeFrom (a.toNat - 0x10000) (lanesOf v n) }) := by
  rw [memWrite_input h h' hn hal hcap, writeInput, hb]
  rfl

/-- A written cell holds its lane. -/
theorem get_writeFrom_lanesOf (m : Memory) (i : Nat) (v : Word) {n k : Nat} (hk : k < n) :
    (m.writeFrom i (lanesOf v n)).get (i + k) = some (v.extractLsb' (8 * k) 8) := by
  rw [Memory.get_writeFrom, lanesOf_length, if_pos (by omega), Nat.add_sub_cancel_left, lanesOf_get, if_pos hk]

/-- The frame of a write of `n` cells. -/
theorem get_writeFrom_lanesOf_of_outside (m : Memory) (v : Word) {i n j : Nat} (hj : j < i ∨ i + n ≤ j) :
    (m.writeFrom i (lanesOf v n)).get j = m.get j := by
  rw [Memory.get_writeFrom, lanesOf_length, if_neg (by omega)]

theorem memWrite_output {a : Addr} (h : 0x20000 ≤ a.toNat) (h' : a.toNat < 0x30000) (n : Nat) (v : Word) (s : State) :
    memWrite a n v s = (.error, s) := by
  rw [memWrite, regionOf_output h h']
  exact ite_self _

/-- Settles O18: the write stores the four lanes, a word read collects them again (`ofNat_lanesToNat_lanesOf`), and a byte read takes
one of them. -/
theorem inputWordWriteReadsBack : Obligations.InputWordWriteReadsBack := by
  intro s a v hb h h' hal hcap
  have hlane := fun k (hk : k < 4) => get_writeFrom_lanesOf s.inWin (a.toNat - 0x10000) v hk
  refine ⟨_, memWrite_input_of_idle hb h h' (by decide) (fun _ => hal) hcap v, ?_, fun k hk => ⟨hlane k hk, ?_⟩,
    fun j hj => get_writeFrom_lanesOf_of_outside s.inWin v hj, rfl⟩
  · have hget := fun k (hk : k < 4) => (hlane k hk).trans ((lanesOf_get v 4 k).trans (if_pos hk)).symm
    rw [memRead_withInWin h h' (by decide) (fun _ => hal) hcap, readWindow_of_written (lanesOf_length v 4) hget,
      ofNat_lanesToNat_lanesOf]
  · have haddr : (a + BitVec.ofNat 18 k).toNat = a.toNat + k := by
      rw [BitVec.toNat_add, toNat_ofNat_addr (by omega), Nat.mod_eq_of_lt (by omega)]
    have hcell : (a + BitVec.ofNat 18 k).toNat - 0x10000 = a.toNat - 0x10000 + k := by omega
    rw [memRead_withInWin (by omega) (by omega) (by decide) (by omega) (by omega), hcell]
    exact readWindow_byte (hlane k hk)

/-- Settles O19: the write stores the one lane, which is the byte. -/
theorem inputByteWriteReadsBack : Obligations.InputByteWriteReadsBack := by
  intro s a b hb h h' hcap
  have hbyte : (b.setWidth 32).extractLsb' (8 * 0) 8 = b := by
    refine BitVec.eq_of_getLsbD_eq fun j hj => ?_
    simp [hj, show j < 32 by omega]
  have hlane := get_writeFrom_lanesOf s.inWin (a.toNat - 0x10000) (b.setWidth 32) Nat.zero_lt_one
  rw [hbyte, Nat.add_zero] at hlane
  refine ⟨_, memWrite_input_of_idle hb h h' (by decide) (by omega) hcap _, ?_,
    fun j hj => get_writeFrom_lanesOf_of_outside s.inWin _ (by omega), rfl⟩
  rw [memRead_withInWin h h' (by decide) (by omega) hcap]
  exact readWindow_byte hlane

/-- Settles O20: an idle block's output read is a read of the window's cells. -/
theorem outputReadsOfIdleBlock : Obligations.OutputReadsOfIdleBlock := by
  intro s i n hb hcap hi hn
  have hread := memRead_outputCell_of_idle hb hcap hi hn
  refine ⟨fun bs hlen hget => ?_, fun hu => hostRead_of_unwritten (hread.trans (readWindow_of_unwritten hu))⟩
  rw [hread]
  exact readWindow_littleEndian (by omega) hlen hget

/-- Settles O60: an input read is a read of the window's cells in any phase, since `memRead` does not test BUSY there. -/
theorem inputReads : Obligations.InputReads := by
  intro s i n hcap hi hn
  refine ⟨fun bs hlen hget => ?_, hostRead_input_unwritten hn hcap hi⟩
  obtain ⟨d, hd, hsum⟩ := readWindow_littleEndian (by omega) hlen hget
  exact ⟨d, hostRead_of_value ((memRead_inputCell hcap hi hn).trans hd), hsum⟩

/-! ### A host read leaves the block (R55, R65) -/

theorem readResult_ne_unspecified {s : State} (hb : s.status.busy = false) (v : Word) (k : Nat) :
    readResult v s ≠ .unspecified k := by
  rw [readResult_of_idle hb]
  exact nofun

theorem readReg_ne_unspecified {s : State} (hb : s.status.busy = false) (r : Reg) (k : Nat) :
    readReg r s ≠ .unspecified k := by
  cases r with
  | outLen | zcount | diglen | errInfo => exact readResult_ne_unspecified hb _ k
  | _ => exact nofun

theorem readPage_ne_unspecified {s : State} (hb : s.status.busy = false) (off k : Nat) :
    readPage off s ≠ .unspecified k := by
  rw [readPage]
  cases Reg.atOffset off with
  | none => exact nofun
  | some r => exact readReg_ne_unspecified hb r k

theorem readWindow_ne_unspecified (m : Memory) (i n k : Nat) : readWindow m i n ≠ .unspecified k := by
  rw [readWindow]
  cases m.readFrom i n <;> exact nofun

/-- No read of an idle block is unspecified (70_reset_and_hazards.md R232). -/
theorem memRead_ne_unspecified {s : State} (hb : s.status.busy = false) (a : Addr) (n k : Nat) :
    memRead a n s ≠ .unspecified k := by
  rw [memRead]
  by_cases h2 : n = 2
  · rw [if_pos h2]; exact nofun
  rw [if_neg h2]
  cases regionOf a with
  | registerPage =>
    dsimp only
    split_ifs
    · exact readPage_ne_unspecified hb _ k
    · exact nofun
  | inputWindow =>
    dsimp only
    split_ifs
    · exact readWindow_ne_unspecified _ _ _ k
    · exact nofun
  | outputWindow =>
    dsimp only
    rw [if_neg (c := s.status.busy = true) (by simp [hb])]
    split_ifs
    · exact readWindow_ne_unspecified _ _ _ k
    · exact nofun
  | unmapped => exact nofun

/-- Settles O17: a read that goes on answers a value, or draws one, which an idle block's never does. -/
theorem hostReadChangesOnlyThePort : Obligations.HostReadChangesOnlyThePort := by
  intro s t a n h
  rcases hostRead_next h with ⟨r, d, -, rfl⟩ | ⟨k, hm, rfl⟩
  · exact ⟨r, d, rfl, rfl, fun _ => rfl⟩
  · exact ⟨.okay, drawnValue k s, rfl, rfl, fun hb => absurd hm (memRead_ne_unspecified hb a n k)⟩

/-! ### The host's turn and the results (R57, R68, R69, R72) -/

/-- The results as R68 lists them stand, ERRCODE at most being cleared (43_control.md R170). -/
def KeepsResults (s t : State) : Prop :=
  t.outLen = s.outLen ∧ t.zcount = s.zcount ∧ t.diglen = s.diglen ∧ t.errInfo = s.errInfo ∧ t.outWin = s.outWin ∧
  (t.status.errcode = s.status.errcode ∨ t.status.errcode = 0#4)

theorem keepsResults_setTurns (ts : List Turn) (s : State) : KeepsResults s (s.setTurns ts) :=
  ⟨rfl, rfl, rfl, rfl, rfl, .inl rfl⟩

theorem hostTurn_keepsResults {s t : State} (h : hostTurn s = .next t) : KeepsResults s t := by
  rcases hostTurn_effect h with ⟨env, rfl⟩ | ⟨a, n, v, rest, env, -, ⟨-, rfl⟩ | ⟨-, rfl⟩ | ⟨-, -, rfl⟩ | ⟨-, i, -, rfl⟩⟩
  · exact ⟨rfl, rfl, rfl, rfl, rfl, .inl rfl⟩
  · exact ⟨rfl, rfl, rfl, rfl, rfl, .inl rfl⟩
  · exact ⟨rfl, rfl, rfl, rfl, rfl, .inr rfl⟩
  · exact ⟨rfl, rfl, rfl, rfl, rfl, .inl rfl⟩
  · exact ⟨rfl, rfl, rfl, rfl, rfl, .inl rfl⟩

/-- A step that is neither a completion nor reset is the host's turn or a sequencer's turn that passes. -/
theorem step_keepsResults {s t : State} (hstep : step s = .next t) (hreset : s.mover ≠ .reset) (hcomp : ¬ s.completes) :
    KeepsResults s t := by
  obtain ⟨-, -, ⟨-, hhost⟩ | ⟨hc, -⟩ | ⟨-, -, rfl⟩ | ⟨hm, -⟩⟩ := step_next hstep
  · exact hostTurn_keepsResults (s := s.setTurns s.env.turns.tail) hhost
  · exact absurd hc hcomp
  · exact keepsResults_setTurns _ s
  · exact absurd hm hreset

/-- Settles O24: the statement is `KeepsResults`, by `step_keepsResults`. -/
theorem resultsChangeOnlyAtCompletion : Obligations.ResultsChangeOnlyAtCompletion :=
  fun _ _ => step_keepsResults

/-- Settles O25: of the effects a host turn can have, a busy block leaves only the discarded write. -/
theorem hostCannotDisturbRunningCommand : Obligations.HostCannotDisturbRunningCommand := by
  intro s t hb h
  rcases hostTurn_effect h with
    ⟨env, rfl⟩ | ⟨a, n, v, rest, env, -, ⟨-, rfl⟩ | ⟨hidle, -⟩ | ⟨hidle, -, -⟩ | ⟨hidle, -⟩⟩
  · rfl
  · rfl
  · simp [hb] at hidle
  · simp [hb] at hidle
  · simp [hb] at hidle

theorem convert_outWin {d : Direction} {s t : State} (h : convert d s = .next t) :
    t.outWin = s.outWin ∨ t.status.err = false := by
  rcases convert_next h with ⟨-, rfl⟩ | ⟨-, u, -, rfl⟩
  · exact .inl rfl
  rcases convertInput_cases d u s with ⟨e, info, dp, -, he⟩ | ⟨c, dp, -, he⟩
  · rw [he]; exact .inl rfl
  · rw [he]; exact .inr rfl

/-- A completion that changes the output window is that of a conversion without error. -/
theorem complete_outWin {s t : State} (h : complete s = .next t) :
    t.outWin = s.outWin ∨
    ((decodeCmd s.cw = .ok .encode ∨ decodeCmd s.cw = .ok .decode) ∧ t.status.err = false) := by
  rcases complete_next h with ⟨i, hi, hexec⟩ | ⟨r, -, rfl⟩
  · cases i with
    | nop =>
      obtain rfl : s.completeOk = t := by simpa [exec_nop] using hexec
      exact .inl rfl
    | encode => exact (convert_outWin hexec).imp_right fun herr => ⟨.inl hi, herr⟩
    | decode => exact (convert_outWin hexec).imp_right fun herr => ⟨.inr hi, herr⟩
    | clrhzd =>
      obtain rfl : { s with status := s.status.hazardCleared }.completeOk = t := by simpa [exec_clrhzd] using hexec
      exact .inl rfl
  · exact .inl rfl

/-- Settles O21: a host write there is refused by its region; a step that is neither a completion nor reset keeps the window
(`step_keepsResults`), and of the completions only a conversion's EMIT writes it (`complete_outWin`). -/
theorem onlyConversionsWriteOutput : Obligations.OnlyConversionsWriteOutput := by
  refine ⟨fun s a n v h h' => memWrite_output h h' n v s, fun s t hstep hchange => ?_⟩
  obtain ⟨-, -, ⟨-, hhost⟩ | ⟨hcomp, hcomplete⟩ | ⟨-, -, rfl⟩ | ⟨hm, -⟩⟩ := step_next hstep
  · obtain ⟨-, -, -, -, hout, -⟩ := hostTurn_keepsResults hhost
    exact absurd hout hchange
  · exact .inr ⟨hcomp, (complete_outWin hcomplete).resolve_left hchange⟩
  · exact absurd rfl hchange
  · exact .inl hm

end Sys2Proof.Machine
end

section
/-! PROOF. Encoding (30_encoding.md): the fields of a command word, which words `decodeCmd` accepts, and the POLL loop. -/

namespace Sys2Proof

/-! ### The fields of a command word (R80) -/

@[simp] theorem opField_append (rsv : BitVec 28) (op : BitVec 4) : opField (rsv ++ op) = op :=
  BitVec.extractLsb'_append_eq_right

@[simp] theorem rsvField_append (rsv : BitVec 28) (op : BitVec 4) : rsvField (rsv ++ op) = rsv :=
  BitVec.extractLsb'_append_eq_left

/-- RSV and OP are the whole word. -/
theorem rsvField_append_opField (w : Word) : rsvField w ++ opField w = w :=
  (BitVec.extractLsb'_append_extractLsb'_eq_extractLsb' rfl).trans BitVec.extractLsb'_eq_self

/-! ### The decoder (R83) -/

theorem decodeCmd_of_reservedBits {w : Word} (h : rsvField w ≠ 0#28) : decodeCmd w = .error .reservedBits :=
  if_pos h

theorem decodeCmd_encode (i : Instr) : decodeCmd (encode i) = .ok i := by
  have hlegal : Laws.EncodingLegal.Statement i := by
    cases i with
    | nop => exact Laws.EncodingLegal.nop
    | encode => exact Laws.EncodingLegal.encode
    | decode => exact Laws.EncodingLegal.decode
    | clrhzd => exact Laws.EncodingLegal.clrhzd
  obtain ⟨-, -, hdecode⟩ := hlegal
  exact hdecode

/-- A word that decodes has no reserved bit set and the OP of its command. -/
theorem fields_of_decodeCmd_ok {w : Word} {i : Instr} (h : decodeCmd w = .ok i) :
    rsvField w = 0#28 ∧ opField w = opcode i := by
  rw [decodeCmd] at h
  split_ifs at h with hrsv hnop hencode hdecode hclrhzd
  · cases h
    exact ⟨not_not.1 hrsv, hnop⟩
  · cases h
    exact ⟨not_not.1 hrsv, hencode⟩
  · cases h
    exact ⟨not_not.1 hrsv, hdecode⟩
  · cases h
    exact ⟨not_not.1 hrsv, hclrhzd⟩

theorem decodeCmd_eq_ok_iff (w : Word) (i : Instr) : decodeCmd w = .ok i ↔ w = encode i := by
  constructor
  · intro h
    obtain ⟨hrsv, hop⟩ := fields_of_decodeCmd_ok h
    rw [← rsvField_append_opField w, hrsv, hop, encode]
  · rintro rfl
    exact decodeCmd_encode i

/-- Settles O1: a word is its two fields, and decoding fixes both (`fields_of_decodeCmd_ok`). -/
theorem decodeAcceptsExactlyTheFourWords : Obligations.DecodeAcceptsExactlyTheFourWords :=
  ⟨decodeCmd_eq_ok_iff, rfl, rfl, rfl, rfl⟩

/-- Settles O2: with RSV = 0 the words are those of `encode`, up to the reserved opcode; RSV is looked at before OP. -/
theorem writtenWordsDecode : Obligations.WrittenWordsDecode := by
  refine ⟨decodeCmd_encode .nop, decodeCmd_encode .encode, decodeCmd_encode .decode, decodeCmd_encode .clrhzd,
    by decide, fun op => ⟨decodeCmd_of_reservedBits ?_, decodeCmd_of_reservedBits ?_⟩⟩
  · rw [rsvField_append]
    decide
  · rw [rsvField_append]
    decide

end Sys2Proof

namespace Sys2Proof.Machine

/-! ### POLL (R88) -/

/-- STATUS reads in any phase, with no value drawn (70_reset_and_hazards.md R232). -/
theorem hostRead_status (s : State) : hostRead 0x00014#18 4 s = .next (s.respond (.read .okay s.status.word)) :=
  hostRead_of_value (memRead_register .status s)

/-- Settles O34: a round of POLL is a read of STATUS with the loop kept in the program while BUSY = 1 (`hostPoll_setProgram`). -/
theorem pollRepeatsWhileBusy : Obligations.PollRepeatsWhileBusy := by
  intro s rest h
  rw [hostTurn_of_cons h, hostOp_poll, hostPoll_setProgram, hostRead_status]
  rfl

end Sys2Proof.Machine
end

section
/-! PROOF. Limb reduction (40_limb_reduction.md): the digits a run of folds leaves in the work buffer, and how a command that folds
can end. -/

namespace Sys2Proof.Machine

/-! ### A command's completion (R108, 60_exceptions.md R195, R196) -/

/-- A conversion of written input raises no error but INVALID_CHARACTER: its folds leave no carry (`foldInput_folded`). -/
theorem convertInput_errcode_le (d : Direction) (u : List Byte) (s : State) :
    (s.convertInput d u).status.errcode.toNat ≤ 1 := by
  rw [State.convertInput, ← Prod.mk.eta (p := foldInput d u)]
  rcases foldInput_folded d u with ⟨hend, -⟩ | ⟨i, ds, hend, -⟩
  · rw [hend]
    exact Nat.zero_le 1
  · rw [hend]
    exact le_rfl

theorem convert_errcode_le {d : Direction} {s t : State} (h : convert d s = .next t) : t.status.errcode.toNat ≤ 2 := by
  rcases convert_next h with ⟨-, rfl⟩ | ⟨-, u, -, rfl⟩
  · exact le_rfl
  · exact (convertInput_errcode_le d u s).trans one_le_two

/-- Settles O46: only a conversion can raise an error, and its folds never end with a carry (`convertInput_errcode_le`). -/
theorem carryOverflowIsNeverRaised : Obligations.CarryOverflowIsNeverRaised := by
  intro s t i h
  cases i with
  | nop => cases h; exact Nat.zero_le 2
  | encode => exact convert_errcode_le h
  | decode => exact convert_errcode_le h
  | clrhzd => cases h; exact Nat.zero_le 2

/-! ### The digits of a value (00_scope.md R12, R112) -/

theorem Direction.one_lt_rOut (d : Direction) : 1 < d.rOut := by cases d <;> decide

/-- `value_R` in the library's order of digits. -/
theorem valueR_eq_ofDigits (r : Nat) (ds : List Nat) : valueR r ds = Nat.ofDigits r ds.reverse := by
  rw [Nat.ofDigits_eq_foldr, List.foldr_reverse, valueR]
  congr 1
  funext acc x
  rw [Nat.cast_id, Nat.add_comm, Nat.mul_comm]

/-- What a digit sequence holds after its leading zeros are the digits of its value. -/
theorem digitsR_valueR {r : Nat} (hr : 1 < r) {ds : List Nat} (h : ∀ x ∈ ds, x < r) :
    digitsR r (valueR r ds) = ds.drop (skip ds) := by
  induction ds with
  | nil => simp [digitsR, skip]
  | cons w ws ih =>
    rw [skip]
    split_ifs with hw
    · have hvalue : valueR r (w :: ws) = valueR r ws := by simp [valueR, hw]
      rw [hvalue, List.drop_succ_cons]
      exact ih fun x hx => h x (List.mem_cons_of_mem w hx)
    · rw [digitsR, valueR_eq_ofDigits, Nat.digits_ofDigits r hr _ (fun x hx => h x (List.mem_reverse.1 hx))
        (by simpa using hw), List.reverse_reverse, List.drop_zero]

/-! ### The buffer after the folds (R110, R113) -/

theorem Chain.Settled.lt_of_mem_work {rOut size : Nat} {c : Chain} (h : c.Settled rOut size) {x : Nat} (hx : x ∈ c.work) :
    x < rOut := by
  obtain ⟨k, hk, rfl⟩ := List.getElem_of_mem hx
  simpa [hk] using h.digits k (h.workLength ▸ hk)

/-- The digits left after the skip are those of the folded value, whatever the buffer's size. -/
theorem Chain.Folded.drop_skip_work {d : Direction} {size : Nat} {ds : List Nat} {c : Chain} (h : c.Folded d size ds) :
    c.work.drop (skip c.work) = convertDigits d.rIn d.rOut ds := by
  rw [convertDigits, ← h.value, digitsR_valueR d.one_lt_rOut fun _ => h.settled.lt_of_mem_work]

theorem Chain.Folded.length_eq {d : Direction} {size : Nat} {ds : List Nat} {c : Chain} (h : c.Folded d size ds) :
    c.length = (convertDigits d.rIn d.rOut ds).length := by
  rw [← h.drop_skip_work, List.length_drop, h.settled.skip_work, h.settled.workLength, Nat.sub_sub_self h.settled.lengthLe]

/-- A buffer of at least the exact size holds every value of `m` symbols. -/
theorem Direction.pow_le_pow_of_workSize_le {d : Direction} {m size : Nat} (h : d.workSize m ≤ size) :
    d.rIn ^ m ≤ d.rOut ^ size :=
  (d.pow_le_pow_workSize m).trans (Nat.pow_le_pow_right d.rOut_pos h)

/-- Folds of digits never stop at an invalid character. -/
theorem foldSymbols_ne_invalidCharacter {d : Direction} {bs : List Byte} (h : ∀ b ∈ bs, d.digit b ≠ none) (i j : Nat)
    (c : Chain) : (foldSymbols d j bs c).1 ≠ .invalidCharacter i := by
  induction bs generalizing j c with
  | nil => exact FoldEnd.noConfusion
  | cons b bs ih =>
    obtain ⟨v, hv⟩ := Option.ne_none_iff_exists'.1 (h b List.mem_cons_self)
    simp only [foldSymbols, hv]
    split_ifs
    · exact FoldEnd.noConfusion
    · exact ih (fun x hx => h x (List.mem_cons_of_mem b hx)) _ _

/-- Folds of digits from CLEAR on, in a buffer of at least the exact size, are all done. -/
theorem foldSymbols_cleared_of_digits {d : Direction} {size : Nat} {bs : List Byte} (h : ∀ b ∈ bs, d.digit b ≠ none)
    (hsize : d.workSize bs.length ≤ size) (j : Nat) :
    ∃ c, foldSymbols d j bs (Chain.cleared size) = (.done, c) ∧ c.Folded d size (bs.filterMap d.digit) := by
  rcases foldSymbols_folded (j := j) (Chain.cleared_folded d size)
    (by simpa using Direction.pow_le_pow_of_workSize_le hsize) with ⟨hend, hf⟩ | ⟨i, ds, hend, -⟩
  · exact ⟨_, Prod.ext hend rfl, hf⟩
  · exact absurd hend (foldSymbols_ne_invalidCharacter h i j _)

/-- Settles O53: folds of digits are all done (`foldSymbols_cleared_of_digits`), and the buffer they leave is settled and holds
the symbols' value, whose digits are what the skip leaves (`Chain.Folded.length_eq`). -/
theorem foldInvariant : Obligations.FoldInvariant := by
  intro dir j size syms hdigits _ hsize
  obtain ⟨c, hfold, hf⟩ := foldSymbols_cleared_of_digits hdigits hsize j
  obtain ⟨hwork, -, hlen, hzeros, htop⟩ := hf.settled
  refine ⟨c, hfold, hwork, hlen, fun k hk => hzeros k (by omega), htop, fun _ => hf.settled.lt_of_mem_work, hf.value,
    hf.length_eq, hf.settled.skip_work, ?_⟩
  rintro rfl
  simpa [convertDigits, digitsR] using hf.length_eq

/-- Two runs of folds of the same symbols, in buffers that can hold them all and in which the same digits stand, end alike and
with the same digits. -/
theorem foldSymbols_folded_alike {d : Direction} {size size' j : Nat} {bs : List Byte} {ds : List Nat} {c c' : Chain}
    (h : c.Folded d size ds) (h' : c'.Folded d size' ds) (hsize : d.rIn ^ (ds.length + bs.length) ≤ d.rOut ^ size)
    (hsize' : d.rIn ^ (ds.length + bs.length) ≤ d.rOut ^ size') :
    (foldSymbols d j bs c).1 = (foldSymbols d j bs c').1 ∧
    ∃ ds', (foldSymbols d j bs c).2.Folded d size ds' ∧ (foldSymbols d j bs c').2.Folded d size' ds' := by
  induction bs generalizing j ds c c' with
  | nil => exact ⟨rfl, ds, h, h'⟩
  | cons b bs ih =>
    rw [foldSymbols, foldSymbols]
    cases hb : d.digit b with
    | none => exact ⟨rfl, ds, h, h'⟩
    | some v =>
      have hv := Direction.digit_lt hb
      have hnext : d.rIn ^ (ds.length + 1) ≤ d.rIn ^ (ds.length + (b :: bs).length) :=
        Nat.pow_le_pow_right d.rIn_pos (by simp)
      have hcarry := pushDigit_carry_eq_zero h hv (hnext.trans hsize)
      have hcarry' := pushDigit_carry_eq_zero h' hv (hnext.trans hsize')
      have hlen : (ds ++ [v]).length + bs.length = ds.length + (b :: bs).length := by
        simp [Nat.add_assoc, Nat.add_comm 1]
      simpa [hcarry, hcarry'] using ih (j := j + 1) (pushDigit_folded h hv hcarry) (pushDigit_folded h' hv hcarry')
        (hlen ▸ hsize) (hlen ▸ hsize')

/-- Settles O54: the folds end alike in both buffers with the same digits folded (`foldSymbols_folded_alike`), and these determine
the mark and the digits after the skip. -/
theorem bufferSizeIndependence : Obligations.BufferSizeIndependence := by
  intro dir j size size' syms hsize hsize'
  obtain ⟨hend, ds, hf, hf'⟩ := foldSymbols_folded_alike (j := j) (bs := syms)
    (Chain.cleared_folded dir size) (Chain.cleared_folded dir size')
    (by simpa using Direction.pow_le_pow_of_workSize_le hsize) (by simpa using Direction.pow_le_pow_of_workSize_le hsize')
  exact ⟨hend, hf.length_eq.trans hf'.length_eq.symm, hf.drop_skip_work.trans hf'.drop_skip_work.symm⟩

end Sys2Proof.Machine
end

section
/-! PROOF. Limb reduction (40_limb_reduction.md R100 to R112): the alphabet, the two counts, the limb step's bounds and the sizes. -/

namespace Sys2Proof.Machine

/-! ### The limb step and the loop (R103, R109) -/

/-- R109: a limb and a carry within their radices leave a carry within its radix. -/
theorem limbStep_bounded {dir : Direction} {d c : Nat} (hd : d < dir.rOut) (hc : c < dir.rIn) :
    limbIntermediate dir.rIn d c ≤ 14847 ∧ (limbStep dir.rIn dir.rOut d c).2 < dir.rIn := by
  cases dir <;> simp only [limbStep, limbIntermediate, Direction.rIn, Direction.rOut] at hd hc ⊢ <;> omega

theorem limbStep_digit_lt (dir : Direction) (d c : Nat) : (limbStep dir.rIn dir.rOut d c).1 < dir.rOut :=
  Nat.mod_lt _ dir.rOut_pos

/-- The registers of the loop within their bounds (R109). -/
structure Chain.Bounded (d : Direction) (c : Chain) : Prop where
  digits : ∀ k, c.work.getD k 0 < d.rOut
  carry : c.carry < d.rIn
  t : c.t ≤ 14847

/-- Setting a position to a digit keeps every position, in or out of the buffer, a digit. -/
theorem getD_set_lt {ws : List Nat} {r x : Nat} (h : ∀ k, ws.getD k 0 < r) (hx : x < r) (p k : Nat) :
    (ws.set p x).getD k 0 < r := by
  by_cases hk : p = k ∧ p < ws.length
  · obtain ⟨rfl, hp⟩ := hk
    simpa [hp] using hx
  · have hsame : (ws.set p x).getD k 0 = ws.getD k 0 := by
      rw [List.getD_eq_getElem?_getD, List.getD_eq_getElem?_getD, List.getElem?_set]
      split_ifs with hpk hp
      · exact absurd ⟨hpk, hp⟩ hk
      · rw [← hpk, List.getElem?_eq_none (not_lt.1 hp)]
      · rfl
    exact hsame ▸ h k

theorem foldLoop_bounded {d : Direction} (p : Nat) {c : Chain} (h : c.Bounded d) : (foldLoop d.rIn d.rOut p c).Bounded d := by
  induction p generalizing c with
  | zero => exact h
  | succ p ih =>
    rw [foldLoop]
    split_ifs
    · obtain ⟨ht, hcarry⟩ := limbStep_bounded (h.digits p) h.carry
      exact ih ⟨getD_set_lt h.digits (limbStep_digit_lt d _ _) p, hcarry, ht⟩
    · exact h

/-- Settles O52: exactness is division with remainder; the bounds are `limbStep_bounded`, kept round the loop (`foldLoop_bounded`). -/
theorem limbStepExactAndBounded : Obligations.LimbStepExactAndBounded := by
  refine ⟨fun dir d c => ⟨Nat.mod_add_div _ _, limbStep_digit_lt dir d c, limbStep_bounded⟩, fun dir p c hdigits hcarry ht => ?_⟩
  obtain ⟨hdigits', hcarry', ht'⟩ := foldLoop_bounded p (Chain.Bounded.mk hdigits hcarry ht)
  exact ⟨hcarry', ht', hdigits'⟩

/-! ### The sizes (R106, R107) -/

theorem lt_encSize_iff (m k : Nat) : k < encSize m ↔ 58 ^ k < 256 ^ m := by
  rw [← not_le, encSize_le_iff, not_le]

theorem lt_decSize_iff (m k : Nat) : k < decSize m ↔ 256 ^ k < 58 ^ m := by
  rw [← not_le, decSize_le_iff, not_le]

/-- ENC_SIZE(1024) = 1399; the powers are written as products so that each exponent is small. -/
theorem encSize_default : encSize 1024 = 1399 := by
  refine Nat.le_antisymm encSize_default_le ((lt_encSize_iff 1024 1398).2 ?_)
  calc 58 ^ 1398 = (58 ^ 233) ^ 6 := pow_mul 58 233 6
    _ < (256 ^ 128) ^ 8 := by norm_num
    _ = 256 ^ 1024 := by rw [← pow_mul]

/-- DEC_SIZE(1024) = 750, in the same way. -/
theorem decSize_default : decSize 1024 = 750 := by
  refine Nat.le_antisymm ((decSize_le_iff 1024 750).2 ?_) ((lt_decSize_iff 1024 749).2 ?_)
  · calc 58 ^ 1024 = (58 ^ 128) ^ 8 := pow_mul 58 128 8
      _ ≤ (256 ^ 125) ^ 6 := by norm_num
      _ = 256 ^ 750 := by rw [← pow_mul]
  · calc 256 ^ 749 = (256 ^ 107) ^ 7 := pow_mul 256 107 7
      _ < (58 ^ 128) ^ 8 := by norm_num
      _ = 58 ^ 1024 := by rw [← pow_mul]

/-- Settles O55: least, by what being at most or above a number means for each size (`encSize_le_iff`, `lt_encSize_iff`); the small
values by evaluation. -/
theorem sizesAreLeastExponents : Obligations.SizesAreLeastExponents :=
  ⟨fun m => ⟨(encSize_le_iff m _).1 le_rfl, fun k => (lt_encSize_iff m k).1⟩,
    fun m => ⟨(decSize_le_iff m _).1 le_rfl, fun k => (lt_decSize_iff m k).1⟩,
    by decide, by decide, by decide, by decide, by decide, by decide, encSize_default, decSize_default⟩

theorem Direction.workSize_le_encSize (d : Direction) {m n : Nat} (h : m ≤ n) : d.workSize m ≤ encSize n := by
  have hm := d.add_workSize_le 0 m
  rw [Nat.zero_add, Nat.zero_add] at hm
  exact hm.trans (encSize_mono h)

theorem State.finish_dp (d : Direction) (z : Nat) (e : FoldEnd × Chain) (s : State) : (s.finish d z e).dp = s.dp := by
  obtain ⟨e, c⟩ := e
  cases e with
  | done => rfl
  | invalidCharacter j => rfl
  | carryOverflow j => rfl

/-- The size register after a conversion of written input within IN_CAP, however its folds ended. -/
theorem convertInput_size {s : State} (hc : s.cfg.wellFormed = true) (d : Direction) {u : List Byte}
    (hu : u.length ≤ s.cfg.inCap) :
    (s.convertInput d u).dp.size.toNat = d.workSize (u.length - leadZ d.zeroIn u) := by
  obtain ⟨-, -, hwork, -, hfit⟩ := Config.fits hc d hu
  rw [State.convertInput, State.finish_dp]
  exact toNat_ofNat_word (by omega)

theorem convert_size {d : Direction} {s t : State} {u : List Byte} (hc : s.cfg.wellFormed = true)
    (hn : s.inLen.toNat ≤ s.cfg.inCap) (hu : s.input = some u) (h : convert d s = .next t) :
    t.dp.size.toNat = d.workSize (u.length - leadZ d.zeroIn u) := by
  obtain ⟨hlen, -⟩ := Memory.readFrom_eq_some.1 hu
  rw [convert_of_written hn hu] at h
  cases h
  exact convertInput_size hc d (hlen ▸ hn)

/-- Settles O56: both sizes are within ENC_SIZE of the whole input (`Direction.workSize_le_encSize`), which R8 keeps within WORK_CAP;
CLEAR's size is what the register takes (`convertInput_size`). -/
theorem workBufferNeverLacksACell : Obligations.WorkBufferNeverLacksACell := by
  refine ⟨fun m => Direction.toBytes.workSize_le_encSize le_rfl, fun m m' => encSize_mono, fun c dir n z hc hn => ?_,
    fun s t u hc hn hu => ⟨convert_size hc hn hu, convert_size hc hn hu⟩⟩
  obtain ⟨-, -, -, -, hwork, -⟩ := c.meetsConstraints_iff.1 (c.wellFormed_iff.1 hc)
  exact ⟨dir.workSize_le_encSize ((Nat.sub_le n z).trans hn), hwork⟩

/-! ### The leading-zero count and the skip (R111, R112) -/

/-- R111: the count is the index of the first symbol that is not the zero symbol. -/
theorem leadZ_eq_findIdx (zsym : Byte) (u : List Byte) : leadZ zsym u = u.findIdx (· != zsym) := by
  induction u with
  | nil => rfl
  | cons b u ih =>
    rw [leadZ, List.findIdx_cons, ih]
    by_cases hb : b = zsym
    · rw [if_pos hb, hb, bne_self_eq_false, cond_false]
    · rw [if_neg hb, bne_iff_ne.2 hb, cond_true]

/-- R112: the skip is the index of the first digit that is not 0. -/
theorem skip_eq_findIdx (ws : List Nat) : skip ws = ws.findIdx (· != 0) := by
  induction ws with
  | nil => rfl
  | cons w ws ih =>
    rw [skip, List.findIdx_cons, ih]
    by_cases hw : w = 0
    · rw [if_pos hw, hw, bne_self_eq_false, cond_false]
    · rw [if_neg hw, bne_iff_ne.2 hw, cond_true]

/-- The index of the first element other than `z` is that of the end of the run of `z`. -/
theorem findIdx_ne_spec {α : Type} [BEq α] [LawfulBEq α] (z : α) (l : List α) :
    l.findIdx (· != z) ≤ l.length ∧ (∀ k, k < l.findIdx (· != z) → l[k]? = some z) ∧
    (l.findIdx (· != z) < l.length → l[l.findIdx (· != z)]? ≠ some z) := by
  refine ⟨List.findIdx_le_length, fun k hk => ?_, fun hlt => ?_⟩
  · rw [List.getElem?_eq_getElem (hk.trans_le List.findIdx_le_length)]
    simpa using List.not_of_lt_findIdx hk
  · rw [List.getElem?_eq_getElem hlt]
    simpa using List.findIdx_getElem (w := hlt)

/-- Settles O58: the skip is the index of the first digit other than 0 (`skip_eq_findIdx`), and every index before it holds 0. -/
theorem skipStopsAtFirstNonZero : Obligations.SkipStopsAtFirstNonZero := by
  intro w
  rw [skip_eq_findIdx]
  exact findIdx_ne_spec 0 w

/-- R111: the count looks at no symbol after the one that ends the run. -/
theorem leadZ_take_append {zsym : Byte} {u : List Byte} (h : leadZ zsym u < u.length) (v : List Byte) :
    leadZ zsym (u.take (leadZ zsym u + 1) ++ v) = leadZ zsym u := by
  simp only [leadZ_eq_findIdx] at h ⊢
  rw [List.findIdx_append, List.findIdx_take, Nat.min_eq_right (Nat.le_succ _), if_pos (by simpa using h)]

/-- Settles O57: the run is `findIdx_ne_spec`, what follows it is not looked at (`leadZ_take_append`). -/
theorem leadingZeroCount : Obligations.LeadingZeroCount := by
  refine ⟨rfl, rfl, fun zsym u => ?_⟩
  obtain ⟨hle, hrun, hend⟩ := findIdx_ne_spec zsym u
  rw [← leadZ_eq_findIdx] at hle hrun hend
  exact ⟨hle, hrun, hend, fun v h => leadZ_take_append h v⟩

/-! ### The alphabet (R100, R101) -/

theorem idx_alph : ∀ d, d < 58 → idx (alph d) = some d := by decide

theorem alph_of_idx {c : Byte} {d : Nat} (h : idx c = some d) : alph d = c := by
  revert c d
  decide

/-- Settles O59: IDX and ALPH undo each other (`alph_of_idx`, `idx_alph`); the table and the count of INVALID codes by evaluation. -/
theorem alphabetMapsAreInverse : Obligations.AlphabetMapsAreInverse := by
  refine ⟨rfl, fun c d => ⟨fun h => ⟨idx_lt h, alph_of_idx h⟩, ?_⟩, by decide +kernel⟩
  rintro ⟨hd, rfl⟩
  exact idx_alph d hd

end Sys2Proof.Machine
end

section
/-! PROOF. ENCODE (41_encode.md): what a conversion of digits leaves is the reference form, in either direction, and what that form says
of ENCODE's results. -/

namespace Sys2Proof.Machine

/-! ### The reference form's digits and symbols (R114, R138, R139) -/

/-- Every byte is a digit of ENCODE (R130). -/
theorem significantDigits_toBase58 (u : List Byte) :
    significantDigits .toBase58 u = (u.drop (leadZ 0x00#8 u)).map BitVec.toNat :=
  congrFun List.filterMap_eq_map' _

/-- R106, R137: the significant digits fit a work buffer of the exact size. -/
theorem referenceDigits_length_le (d : Direction) (u : List Byte) :
    (referenceDigits d u).length ≤ d.workSize (u.length - leadZ d.zeroIn u) := by
  have hlen : (significantDigits d u).length ≤ u.length - leadZ d.zeroIn u :=
    (List.length_filterMap_le _ _).trans_eq List.length_drop
  have hvalue : valueR d.rIn (significantDigits d u) < d.rIn ^ (significantDigits d u).length := valueR_lt fun x hx => by
    obtain ⟨b, -, hb⟩ := List.mem_filterMap.1 hx
    exact Direction.digit_lt hb
  rw [referenceDigits, convertDigits, digitsR, List.length_reverse, Nat.digits_length_le_iff d.one_lt_rOut]
  calc valueR d.rIn (significantDigits d u) < d.rIn ^ (significantDigits d u).length := hvalue
    _ ≤ d.rIn ^ (u.length - leadZ d.zeroIn u) := Nat.pow_le_pow_right d.rIn_pos hlen
    _ ≤ d.rOut ^ d.workSize (u.length - leadZ d.zeroIn u) := d.pow_le_pow_workSize _

theorem referenceOutput_length (d : Direction) (u : List Byte) :
    (referenceOutput d u).length = leadZ d.zeroIn u + (referenceDigits d u).length := by
  simp [referenceOutput]

/-- A legal configuration keeps the output of an input within IN_CAP within the output window (R137), so OUT_LEN can hold its
length. -/
theorem referenceOutput_length_lt {s : State} {u : List Byte} (hc : s.cfg.wellFormed = true)
    (hn : s.inLen.toNat ≤ s.cfg.inCap) (hu : s.input = some u) (d : Direction) : (referenceOutput d u).length < 2 ^ 32 := by
  obtain ⟨hulen, -⟩ := Memory.readFrom_eq_some.1 hu
  obtain ⟨-, hout, -, hfit, -⟩ := Config.fits hc d (hulen ▸ hn)
  have := referenceDigits_length_le d u
  rw [referenceOutput_length]
  omega

/-- Only the digit 0 has the zero symbol. -/
theorem Direction.symbol_ne_zeroOut {d : Direction} {x : Nat} (hx : x < d.rOut) (h0 : x ≠ 0) : d.symbol x ≠ d.zeroOut := by
  cases d with
  | toBase58 =>
    intro h
    have hidx : some x = some 0 := (idx_alph x hx).symm.trans (congrArg idx h)
    exact h0 (Option.some.inj hidx)
  | toBytes =>
    intro h
    have hmod : x % 2 ^ 8 = 0 := congrArg BitVec.toNat h
    exact h0 ((Nat.mod_eq_of_lt (show x < 2 ^ 8 from hx)).symm.trans hmod)

/-- `digits_R` has no leading zero (00_scope.md R12), so the first symbol is not the zero symbol. -/
theorem leadZ_map_symbol_digitsR (d : Direction) (n : Nat) : leadZ d.zeroOut ((digitsR d.rOut n).map d.symbol) = 0 := by
  cases hds : digitsR d.rOut n with
  | nil => rfl
  | cons x xs =>
    have hx : x < d.rOut := Nat.digits_lt_base (m := n) d.one_lt_rOut
      (List.mem_reverse.1 (show x ∈ digitsR d.rOut n from hds ▸ List.mem_cons_self))
    have hrev : Nat.digits d.rOut n = xs.reverse ++ [x] := by
      rw [← List.reverse_cons, ← hds, digitsR, List.reverse_reverse]
    have h0 : x ≠ 0 := by
      have hn : n ≠ 0 := by rintro rfl; simp at hrev
      simpa [hrev] using Nat.getLast_digit_ne_zero d.rOut hn
    rw [List.map_cons, leadZ, if_neg (Direction.symbol_ne_zeroOut hx h0)]

theorem leadZ_replicate_append (zsym : Byte) (n : Nat) (v : List Byte) :
    leadZ zsym (List.replicate n zsym ++ v) = n + leadZ zsym v := by
  induction n with
  | zero => simp
  | succ n ih => rw [List.replicate_succ, List.cons_append, leadZ, if_pos rfl, ih, Nat.add_right_comm]

/-- R138: the output has as many leading zero symbols as the input. -/
theorem leadZ_referenceOutput (d : Direction) (u : List Byte) :
    leadZ d.zeroOut (referenceOutput d u) = leadZ d.zeroIn u := by
  rw [referenceOutput, leadZ_replicate_append, referenceDigits, convertDigits, leadZ_map_symbol_digitsR, Nat.add_zero]

/-! ### A conversion of digits leaves the reference form (R139, 42_decode.md R159) -/

/-- The state a successful conversion of `u` leaves, its hidden datapath holding `dp`. -/
def State.referenceResult (d : Direction) (u : List Byte) (dp : Datapath) (s : State) : State :=
  { s with dp := dp, outWin := s.outWin.writeFrom 0 (referenceOutput d u) }.completeResult
    (referenceOutput d u).length (leadZ d.zeroIn u) (referenceDigits d u).length

/-- Folds that are all done leave the reference digits (`Chain.Folded.drop_skip_work`). -/
theorem convertInput_of_done {d : Direction} {u : List Byte} (h : (foldInput d u).1 = .done) (s : State) :
    ∃ dp, s.convertInput d u = s.referenceResult d u dp := by
  rcases foldInput_folded d u with ⟨-, hf⟩ | ⟨i, ds, hi, -⟩
  · have hemit : emitted d (leadZ d.zeroIn u) (foldInput d u).2 = referenceOutput d u := by
      rw [emitted, hf.drop_skip_work, referenceOutput, referenceDigits]
    have hlen : leadZ d.zeroIn u + (foldInput d u).2.work.length - skip (foldInput d u).2.work =
        (referenceOutput d u).length := by
      rw [← hemit, emitted, List.length_append, List.length_replicate, List.length_map, List.length_drop]
      have := hf.settled.skip_work
      have := hf.settled.workLength
      omega
    refine ⟨(foldInput d u).2.latch (leadZ d.zeroIn u) (d.workSize (u.length - leadZ d.zeroIn u)), ?_⟩
    rw [State.convertInput, ← Prod.mk.eta (p := foldInput d u), h, State.finish, State.emit, hemit, hlen, hf.length_eq]
    rfl
  · rw [h] at hi
    cases hi

theorem foldInput_done_of_digits {d : Direction} {u : List Byte} (h : ∀ b ∈ u, d.digit b ≠ none) :
    (foldInput d u).1 = .done := by
  rcases foldInput_folded d u with ⟨hend, -⟩ | ⟨i, ds, hend, -⟩
  · exact hend
  · exact absurd hend (foldSymbols_ne_invalidCharacter (fun b hb => h b (List.mem_of_mem_drop hb)) i _ _)

/-- A conversion of written digits within IN_CAP succeeds. -/
theorem convert_of_digits {d : Direction} {s : State} {u : List Byte} (hn : s.inLen.toNat ≤ s.cfg.inCap)
    (hu : s.input = some u) (h : ∀ b ∈ u, d.digit b ≠ none) : ∃ dp, convert d s = .next (s.referenceResult d u dp) := by
  obtain ⟨dp, hdp⟩ := convertInput_of_done (foldInput_done_of_digits h) s
  exact ⟨dp, by rw [convert_of_written hn hu, hdp]⟩

/-- A conversion that succeeds had written input within IN_CAP. -/
theorem convert_ok {d : Direction} {s t : State} (h : convert d s = .next t) (herr : t.status.err = false) :
    s.inLen.toNat ≤ s.cfg.inCap ∧ ∃ u dp, s.input = some u ∧ t = s.referenceResult d u dp := by
  rcases convert_next h with ⟨-, rfl⟩ | ⟨hn, u, hu, rfl⟩
  · cases herr
  · rcases convertInput_cases d u s with ⟨e, info, dp, -, he⟩ | ⟨c, dp, hdone, -⟩
    · rw [he] at herr
      cases herr
    · obtain ⟨dp, hdp⟩ := convertInput_of_done (congrArg Prod.fst hdone) s
      exact ⟨hn, u, dp, hu, hdp⟩

/-! ### The result of a conversion (43_control.md R177) -/

section
variable {d : Direction} {u : List Byte} (h : (referenceOutput d u).length < 2 ^ 32) (dp : Datapath) (s : State)

theorem State.get_referenceResult (k : Nat) : (s.referenceResult d u dp).outWin.get k =
    if k < (referenceOutput d u).length then (referenceOutput d u)[k]? else s.outWin.get k := by
  simp [State.referenceResult, Memory.get_writeFrom]

include h

theorem State.referenceResult_outLen :
    (s.referenceResult d u dp).outLen.toNat = (referenceOutput d u).length := toNat_ofNat_word h

theorem State.referenceResult_zcount : (s.referenceResult d u dp).zcount.toNat = leadZ d.zeroIn u :=
  toNat_ofNat_word (by rw [referenceOutput_length] at h; omega)

theorem State.referenceResult_diglen : (s.referenceResult d u dp).diglen.toNat = (referenceDigits d u).length :=
  toNat_ofNat_word (by rw [referenceOutput_length] at h; omega)

theorem State.referenceResult_output : (s.referenceResult d u dp).output = some (referenceOutput d u) := by
  rw [State.output, s.referenceResult_outLen h]
  exact Memory.readFrom_writeFrom_same _ 0 _

end

/-- The whole of what a successful conversion leaves, in either direction. -/
theorem convert_leaves_referenceForm {d : Direction} {s : State} {u : List Byte} (hc : s.cfg.wellFormed = true)
    (hn : s.inLen.toNat ≤ s.cfg.inCap) (hu : s.input = some u) (h : ∀ b ∈ u, d.digit b ≠ none) :
    ∃ t, convert d s = .next t ∧ t.output = some (referenceOutput d u) ∧
      t.outLen.toNat = t.zcount.toNat + t.diglen.toNat ∧ t.zcount.toNat = leadZ d.zeroIn u ∧
      t.diglen.toNat = (referenceDigits d u).length ∧ t.errInfo = 0#32 ∧
      t.status = { s.status with busy := false, done := true, err := false, errcode := 0#4 } ∧
      ∀ k, t.outLen.toNat ≤ k → t.outWin.get k = s.outWin.get k := by
  have hfit := referenceOutput_length_lt hc hn hu d
  obtain ⟨dp, hconv⟩ := convert_of_digits hn hu h
  have hout := s.referenceResult_outLen hfit dp
  have hz := s.referenceResult_zcount hfit dp
  have hdig := s.referenceResult_diglen hfit dp
  refine ⟨_, hconv, s.referenceResult_output hfit dp, ?_, hz, hdig, rfl, rfl, fun k hk => ?_⟩
  · rw [hout, hz, hdig, referenceOutput_length]
  · rw [s.get_referenceResult, if_neg (not_lt.2 (hout ▸ hk))]

/-! ### ENCODE (R130, R136 to R139) -/

/-- Settles O40: every byte is a digit, so ENCODE leaves the reference form (`convert_leaves_referenceForm`). -/
theorem encodeLeavesReferenceForm : Obligations.EncodeLeavesReferenceForm := by
  intro s u hc hn hu
  have hform := convert_leaves_referenceForm (d := .toBase58) hc hn hu fun b _ => Option.some_ne_none b.toNat
  rw [referenceOutput, referenceDigits, significantDigits_toBase58] at hform
  exact hform

/-- Settles O47: the output cells are the reference form's symbols, which have as many leading zeros as the input
(`leadZ_referenceOutput`), and the count ends where a symbol is not the zero symbol (`leadingZeroCount`). -/
theorem encodeLeadingZeroFidelity : Obligations.EncodeLeadingZeroFidelity := by
  intro s t hc h herr
  obtain ⟨hn, u, dp, hu, rfl⟩ := convert_ok h herr
  have hfit := referenceOutput_length_lt hc hn hu .toBase58
  obtain ⟨hle, hrun, hend, -⟩ := leadingZeroCount.2.2 0x31#8 (referenceOutput .toBase58 u)
  have hlead : leadZ 0x31#8 (referenceOutput .toBase58 u) = leadZ 0x00#8 u := leadZ_referenceOutput .toBase58 u
  rw [hlead] at hle hrun hend
  have hz : (s.referenceResult .toBase58 u dp).zcount.toNat = leadZ 0x00#8 u := s.referenceResult_zcount hfit dp
  rw [hz, s.referenceResult_outLen hfit dp]
  refine ⟨⟨u, hu, rfl⟩, fun k hk => ?_, fun hlt => ?_⟩
  · rw [s.get_referenceResult, if_pos (hk.trans_le hle), hrun k hk]
  · rw [s.get_referenceResult, if_pos hlt]
    exact ⟨hend hlt, by simpa using hlt⟩

/-- The value of `n` bytes 0xFF is the largest below 256^n. -/
theorem valueR_replicate_0xFF (n : Nat) : valueR 256 (List.replicate n 0xFF) + 1 = 256 ^ n := by
  induction n with
  | zero => rfl
  | succ n ih =>
    rw [List.replicate_succ', valueR_append_singleton, pow_succ, ← ih]
    ring

/-- R137: the bound is reached, since a number of digits suffices for the largest value exactly when its power reaches 256^n. -/
theorem convertDigits_replicate_0xFF_length (n : Nat) :
    (convertDigits 256 58 (List.replicate n 0xFF)).length = encSize n := by
  refine eq_of_forall_ge_iff fun k => ?_
  rw [encSize_le_iff, convertDigits, digitsR, List.length_reverse, Nat.digits_length_le_iff (by norm_num),
    ← valueR_replicate_0xFF, Nat.succ_le_iff]

/-- Settles O50: the digits fit the exact size (`referenceDigits_length_le`), the zeros cost no more than they give back
(`add_encSize_le`), and R8 keeps the rest. -/
theorem encodeOutputFits : Obligations.EncodeOutputFits := by
  refine ⟨fun s t hc h herr => ?_, add_encSize_le, convertDigits_replicate_0xFF_length⟩
  obtain ⟨hn, u, dp, hu, rfl⟩ := convert_ok h herr
  obtain ⟨hulen, -⟩ := Memory.readFrom_eq_some.1 hu
  have hfit := referenceOutput_length_lt hc hn hu .toBase58
  have hdigits : (referenceDigits .toBase58 u).length ≤ encSize (s.inLen.toNat - leadZ Direction.toBase58.zeroIn u) :=
    hulen ▸ referenceDigits_length_le .toBase58 u
  have hzeros := add_encSize_le (leadZ Direction.toBase58.zeroIn u) (s.inLen.toNat - leadZ Direction.toBase58.zeroIn u)
  rw [Nat.add_sub_cancel' (hulen ▸ leadZ_le_length _ u)] at hzeros
  obtain ⟨-, -, hcap, -⟩ := s.cfg.meetsConstraints_iff.1 (s.cfg.wellFormed_iff.1 hc)
  rw [s.referenceResult_outLen hfit, s.referenceResult_zcount hfit, s.referenceResult_diglen hfit, referenceOutput_length]
  exact ⟨rfl, hdigits, (Nat.add_le_add_left hdigits _).trans hzeros, encSize_mono hn, hcap⟩

/-! ### The edge cases (R136, 42_decode.md R157) -/

theorem leadZ_replicate (zsym : Byte) (n : Nat) : leadZ zsym (List.replicate n zsym) = n := by
  simpa [leadZ] using leadZ_replicate_append zsym n []

/-- An all-zero input has no significant digit. -/
theorem referenceDigits_replicate_zeroIn (d : Direction) (n : Nat) : referenceDigits d (List.replicate n d.zeroIn) = [] := by
  simp [referenceDigits, significantDigits, leadZ_replicate, convertDigits, digitsR]

theorem referenceOutput_replicate_zeroIn (d : Direction) (n : Nat) :
    referenceOutput d (List.replicate n d.zeroIn) = List.replicate n d.zeroOut := by
  rw [referenceOutput, leadZ_replicate, referenceDigits_replicate_zeroIn, List.map_nil, List.append_nil]

theorem Direction.digit_zeroIn_ne_none (d : Direction) : d.digit d.zeroIn ≠ none := by cases d <;> decide

/-- A conversion of IN_LEN zero symbols, none included, in any configuration. -/
theorem convert_of_zeros {d : Direction} {s : State} (hn : s.inLen.toNat ≤ s.cfg.inCap)
    (hu : s.input = some (List.replicate s.inLen.toNat d.zeroIn)) :
    ∃ t, convert d s = .next t ∧ t.status.err = false ∧ t.outLen = s.inLen ∧ t.zcount = s.inLen ∧ t.diglen = 0#32 ∧
      t.output = some (List.replicate s.inLen.toNat d.zeroOut) ∧
      t.outWin = s.outWin.writeFrom 0 (List.replicate s.inLen.toNat d.zeroOut) := by
  obtain ⟨dp, hconv⟩ := convert_of_digits hn hu fun b hb => List.eq_of_mem_replicate hb ▸ d.digit_zeroIn_ne_none
  have hout := s.referenceResult_output (d := d) (u := List.replicate s.inLen.toNat d.zeroIn)
    (by simpa [referenceOutput_replicate_zeroIn] using s.inLen.isLt) dp
  refine ⟨_, hconv, rfl, ?_, ?_, ?_, ?_, ?_⟩
  · simp [State.referenceResult, referenceOutput_replicate_zeroIn]
  · simp [State.referenceResult, leadZ_replicate]
  · simp [State.referenceResult, referenceDigits_replicate_zeroIn]
  · rw [hout, referenceOutput_replicate_zeroIn]
  · simp [State.referenceResult, referenceOutput_replicate_zeroIn]

/-- With IN_LEN = 0 no cell is written. -/
theorem convert_of_empty {s : State} (h0 : s.inLen = 0#32) (d : Direction) :
    ∃ t, convert d s = .next t ∧ t.status.err = false ∧ t.outLen = 0#32 ∧ t.zcount = 0#32 ∧ t.diglen = 0#32 ∧
      t.outWin = s.outWin := by
  have hlen : s.inLen.toNat = 0 := congrArg BitVec.toNat h0
  have hu : s.input = some (List.replicate s.inLen.toNat d.zeroIn) := by rw [State.input, hlen]; rfl
  obtain ⟨t, hconv, herr, hout, hz, hdig, -, hwin⟩ := convert_of_zeros (hlen ▸ Nat.zero_le _) hu
  rw [hlen] at hwin
  exact ⟨t, hconv, herr, hout.trans h0, hz.trans h0, hdig, hwin⟩

/-- Settles O45: zero symbols, none included, are `convert_of_zeros`; the first character of `"0OIl"` is no zero symbol and no
digit, so its fold is the first and ends the command. -/
theorem emptyAndAllZeroInputs : Obligations.EmptyAndAllZeroInputs := by
  refine ⟨fun s h0 i hi => ?_, fun s hn hu => ?_, fun s hn hu => ?_, fun s hn hu => ?_⟩
  · rcases hi with rfl | rfl
    · exact convert_of_empty h0 .toBase58
    · exact convert_of_empty h0 .toBytes
  · obtain ⟨t, hconv, herr, hout, hz, hdig, houtput, -⟩ := convert_of_zeros (d := .toBase58) hn hu
    exact ⟨t, hconv, herr, hout, hz, hdig, houtput⟩
  · obtain ⟨t, hconv, herr, hout, hz, hdig, houtput, -⟩ := convert_of_zeros (d := .toBytes) hn hu
    exact ⟨t, hconv, herr, hout, hz, hdig, houtput⟩
  · exact ⟨_, convert_of_written hn hu, rfl, rfl, rfl⟩

end Sys2Proof.Machine
end

section
/-! PROOF. DECODE (42_decode.md): the reference form and its bounds in that direction, and the two round trips, which are one: the
reference form of one direction undoes the other's. -/

namespace Sys2Proof.Machine

/-- Settles O41: codes of the alphabet are DECODE's digits, so DECODE leaves the reference form (`convert_leaves_referenceForm`). -/
theorem decodeLeavesReferenceForm : Obligations.DecodeLeavesReferenceForm := by
  intro s u hc hn hu hcodes
  have hform := convert_leaves_referenceForm (d := .toBytes) hc hn hu hcodes
  rw [referenceOutput, referenceDigits, significantDigits] at hform
  exact hform

/-! ### DECODE's output fits (R158) -/

/-- R158: the leading zeros and the exact size for the rest are no more than the input. -/
theorem leadZ_add_decSize_le (zsym : Byte) (u : List Byte) : leadZ zsym u + decSize (u.length - leadZ zsym u) ≤ u.length :=
  calc leadZ zsym u + decSize (u.length - leadZ zsym u)
      ≤ leadZ zsym u + (u.length - leadZ zsym u) := Nat.add_le_add_left (decSize_le_self _) _
    _ = u.length := Nat.add_sub_cancel' (leadZ_le_length zsym u)

/-- Settles O51: the digits fit the exact size (`referenceDigits_length_le`), which with the zeros is within the input
(`leadZ_add_decSize_le`); R8 and `le_encSize` keep that within the output window. -/
theorem decodeOutputFits : Obligations.DecodeOutputFits := by
  refine ⟨fun s t hc h herr => ?_, fun m => ⟨decSize_le_self m, le_encSize m⟩⟩
  obtain ⟨hn, u, dp, hu, rfl⟩ := convert_ok h herr
  obtain ⟨hulen, -⟩ := Memory.readFrom_eq_some.1 hu
  have hfit := referenceOutput_length_lt hc hn hu .toBytes
  obtain ⟨-, -, hcap, -⟩ := s.cfg.meetsConstraints_iff.1 (s.cfg.wellFormed_iff.1 hc)
  rw [s.referenceResult_outLen hfit, s.referenceResult_zcount hfit, s.referenceResult_diglen hfit, referenceOutput_length,
    ← hulen]
  exact ⟨rfl, referenceDigits_length_le .toBytes u, leadZ_add_decSize_le _ u, hulen ▸ hn, (le_encSize _).trans hcap⟩

/-! ### The other direction (R102) -/

/-- The direction that takes this one's output symbols as its input (R102). -/
def Direction.inverse : Direction → Direction
  | .toBase58 => .toBytes
  | .toBytes => .toBase58

@[simp] theorem Direction.rIn_inverse (d : Direction) : d.inverse.rIn = d.rOut := by cases d <;> rfl

@[simp] theorem Direction.rOut_inverse (d : Direction) : d.inverse.rOut = d.rIn := by cases d <;> rfl

@[simp] theorem Direction.zeroIn_inverse (d : Direction) : d.inverse.zeroIn = d.zeroOut := by cases d <;> rfl

@[simp] theorem Direction.zeroOut_inverse (d : Direction) : d.inverse.zeroOut = d.zeroIn := by cases d <;> rfl

/-- The output symbol of a digit stands for that digit in the other direction. -/
theorem Direction.digit_inverse_symbol {d : Direction} {x : Nat} (hx : x < d.rOut) : d.inverse.digit (d.symbol x) = some x := by
  cases d with
  | toBase58 => exact idx_alph x hx
  | toBytes => exact congrArg some (Nat.mod_eq_of_lt hx)

/-- The digit an input symbol stands for has that symbol in the other direction. -/
theorem Direction.symbol_inverse_of_digit {d : Direction} {b : Byte} {x : Nat} (h : d.digit b = some x) :
    d.inverse.symbol x = b := by
  cases d with
  | toBase58 =>
    obtain rfl : b.toNat = x := Option.some.inj h
    exact (BitVec.ofNat_toNat 8 b).trans b.setWidth_eq
  | toBytes => exact alph_of_idx h

/-- Only the zero symbol stands for the digit 0. -/
theorem Direction.eq_zeroIn_of_digit_eq_zero {d : Direction} {b : Byte} (h : d.digit b = some 0) : b = d.zeroIn := by
  rw [← Direction.symbol_inverse_of_digit h]
  cases d <;> rfl

/-! ### The digits of a value and back (R114, R160) -/

theorem valueR_digitsR (r n : Nat) : valueR r (digitsR r n) = n := by
  rw [valueR_eq_ofDigits, digitsR, List.reverse_reverse, Nat.ofDigits_digits]

/-- R160: converting there and back leaves a digit sequence without its leading zeros. -/
theorem convertDigits_convertDigits {r : Nat} (hr : 1 < r) (r' : Nat) {ds : List Nat} (h : ∀ x ∈ ds, x < r) :
    convertDigits r' r (convertDigits r r' ds) = ds.drop (skip ds) := by
  rw [convertDigits, convertDigits, valueR_digitsR, digitsR_valueR hr h]

theorem significantDigits_lt {d : Direction} {u : List Byte} {x : Nat} (hx : x ∈ significantDigits d u) : x < d.rIn := by
  obtain ⟨b, -, hb⟩ := List.mem_filterMap.1 hx
  exact Direction.digit_lt hb

/-- The bypass leaves no leading zero digit. -/
theorem skip_significantDigits {d : Direction} {u : List Byte} (h : ∀ b ∈ u, d.digit b ≠ none) :
    skip (significantDigits d u) = 0 := by
  induction u with
  | nil => rfl
  | cons b u ih =>
    rw [significantDigits, leadZ]
    split_ifs with hb
    · exact ih fun x hx => h x (List.mem_cons_of_mem b hx)
    · obtain ⟨v, hv⟩ := Option.ne_none_iff_exists'.1 (h b List.mem_cons_self)
      have hv0 : v ≠ 0 := by
        rintro rfl
        exact hb (Direction.eq_zeroIn_of_digit_eq_zero hv)
      rw [List.drop_zero, List.filterMap_cons_some hv, skip, if_neg hv0]

/-- Digits read from symbols and written again are the symbols. -/
theorem map_symbol_inverse_filterMap_digit {d : Direction} {bs : List Byte} (h : ∀ b ∈ bs, d.digit b ≠ none) :
    (bs.filterMap d.digit).map d.inverse.symbol = bs := by
  induction bs with
  | nil => rfl
  | cons b bs ih =>
    obtain ⟨v, hv⟩ := Option.ne_none_iff_exists'.1 (h b List.mem_cons_self)
    rw [List.filterMap_cons_some hv, List.map_cons, Direction.symbol_inverse_of_digit hv,
      ih fun x hx => h x (List.mem_cons_of_mem b hx)]

/-- Symbols written from digits and read again are the digits. -/
theorem filterMap_digit_inverse_map_symbol {d : Direction} {ds : List Nat} (h : ∀ x ∈ ds, x < d.rOut) :
    (ds.map d.symbol).filterMap d.inverse.digit = ds := by
  induction ds with
  | nil => rfl
  | cons x ds ih =>
    rw [List.map_cons, List.filterMap_cons_some (Direction.digit_inverse_symbol (h x List.mem_cons_self)),
      ih fun y hy => h y (List.mem_cons_of_mem x hy)]

/-- R111: an input is its leading zero symbols and the rest. -/
theorem replicate_leadZ_append_drop (zsym : Byte) (u : List Byte) :
    List.replicate (leadZ zsym u) zsym ++ u.drop (leadZ zsym u) = u := by
  induction u with
  | nil => rfl
  | cons b u ih =>
    rw [leadZ]
    split_ifs with hb
    · rw [List.replicate_succ, List.drop_succ_cons, List.cons_append, ih, hb]
    · rfl

/-! ### The reference form of one direction undoes the other's (R160, R161) -/

theorem referenceDigits_lt {d : Direction} {u : List Byte} {x : Nat} (hx : x ∈ referenceDigits d u) : x < d.rOut :=
  Nat.digits_lt_base d.one_lt_rOut (List.mem_reverse.1 hx)

/-- The output symbols are all digits of the other direction. -/
theorem digit_inverse_referenceOutput {d : Direction} {u : List Byte} :
    ∀ b ∈ referenceOutput d u, d.inverse.digit b ≠ none := by
  intro b hb
  rcases List.mem_append.1 hb with hzero | hdigit
  · rw [List.eq_of_mem_replicate hzero, ← d.zeroIn_inverse]
    exact d.inverse.digit_zeroIn_ne_none
  · obtain ⟨x, hx, rfl⟩ := List.mem_map.1 hdigit
    rw [Direction.digit_inverse_symbol (referenceDigits_lt hx)]
    exact Option.some_ne_none x

/-- What the other direction folds of an output are the reference digits: the leading zeros are 1:1 (`leadZ_referenceOutput`). -/
theorem significantDigits_inverse_referenceOutput (d : Direction) (u : List Byte) :
    significantDigits d.inverse (referenceOutput d u) = referenceDigits d u := by
  rw [significantDigits, d.zeroIn_inverse, leadZ_referenceOutput, referenceOutput, List.drop_left' List.length_replicate,
    filterMap_digit_inverse_map_symbol fun _ => referenceDigits_lt]

/-- Their digits in the other direction are those the command folded, none of them a leading zero. -/
theorem referenceDigits_inverse_referenceOutput {d : Direction} {u : List Byte} (h : ∀ b ∈ u, d.digit b ≠ none) :
    referenceDigits d.inverse (referenceOutput d u) = significantDigits d u := by
  rw [referenceDigits, significantDigits_inverse_referenceOutput, d.rIn_inverse, d.rOut_inverse, referenceDigits,
    convertDigits_convertDigits (d.rOut_inverse ▸ d.inverse.one_lt_rOut) _ fun _ => significantDigits_lt,
    skip_significantDigits h, List.drop_zero]

/-- R160, R161: the reference form of an output in the other direction is the input. -/
theorem referenceOutput_inverse_referenceOutput {d : Direction} {u : List Byte} (h : ∀ b ∈ u, d.digit b ≠ none) :
    referenceOutput d.inverse (referenceOutput d u) = u := by
  rw [referenceOutput, d.zeroIn_inverse, d.zeroOut_inverse, leadZ_referenceOutput, referenceDigits_inverse_referenceOutput h,
    significantDigits, map_symbol_inverse_filterMap_digit fun b hb => h b (List.mem_of_mem_drop hb),
    replicate_leadZ_append_drop]

/-- The round trip of the block, in either direction: written digits whose reference form fits the input window. -/
theorem convert_inverse_convert {d : Direction} {s t s' : State} {u : List Byte} (hc : s.cfg.wellFormed = true)
    (hn : s.inLen.toNat ≤ s.cfg.inCap) (hu : s.input = some u) (hdigits : ∀ b ∈ u, d.digit b ≠ none)
    (hfit : (referenceOutput d u).length ≤ s.cfg.inCap) (h : convert d s = .next t)
    (hcfg : s'.cfg = s.cfg) (hlen : s'.inLen = t.outLen) (hin : s'.input = t.output) :
    ∃ t', convert d.inverse s' = .next t' ∧ t'.status.err = false ∧ t'.outLen = s.inLen ∧ t'.output = some u := by
  have hlt := referenceOutput_length_lt hc hn hu d
  obtain ⟨hulen, -⟩ := Memory.readFrom_eq_some.1 hu
  obtain ⟨dp, hconv⟩ := convert_of_digits hn hu hdigits
  obtain rfl : s.referenceResult d u dp = t := Host.Outcome.next.inj (hconv.symm.trans h)
  have hn' : s'.inLen.toNat ≤ s'.cfg.inCap := by rwa [hlen, s.referenceResult_outLen hlt, hcfg]
  obtain ⟨dp', hconv'⟩ := convert_of_digits hn' (hin.trans (s.referenceResult_output hlt dp)) digit_inverse_referenceOutput
  have hback : referenceOutput d.inverse (referenceOutput d u) = u := referenceOutput_inverse_referenceOutput hdigits
  have hlt' : (referenceOutput d.inverse (referenceOutput d u)).length < 2 ^ 32 := by
    rw [hback, hulen]
    exact s.inLen.isLt
  refine ⟨_, hconv', rfl, BitVec.eq_of_toNat_eq ?_, ?_⟩
  · rw [s'.referenceResult_outLen hlt', hback, hulen]
  · rw [s'.referenceResult_output hlt', hback]

/-! ### How long an input may be for its round trip (R160) -/

/-- R137: the output is within ENC_SIZE of the input, in either direction. -/
theorem referenceOutput_length_le_encSize (d : Direction) (u : List Byte) : (referenceOutput d u).length ≤ encSize u.length :=
  calc (referenceOutput d u).length = leadZ d.zeroIn u + (referenceDigits d u).length := referenceOutput_length d u
    _ ≤ leadZ d.zeroIn u + d.workSize (u.length - leadZ d.zeroIn u) :=
      Nat.add_le_add_left (referenceDigits_length_le d u) _
    _ ≤ encSize (leadZ d.zeroIn u + (u.length - leadZ d.zeroIn u)) := d.add_workSize_le _ _
    _ = encSize u.length := by rw [Nat.add_sub_cancel' (leadZ_le_length d.zeroIn u)]

/-- R158: DECODE's output is no longer than its input. -/
theorem referenceOutput_toBytes_length_le (u : List Byte) : (referenceOutput .toBytes u).length ≤ u.length := by
  rw [referenceOutput_length]
  exact (Nat.add_le_add_left (referenceDigits_length_le .toBytes u) _).trans (leadZ_add_decSize_le _ u)

/-- 29 divides a power of 58 and none of 256. -/
theorem pow_256_ne_pow_58 (m : Nat) {k : Nat} (hk : k ≠ 0) : 256 ^ m ≠ 58 ^ k := by
  intro h
  have hdvd : 29 ∣ 256 ^ m := h ▸ dvd_pow (by decide : 29 ∣ 58) hk
  exact absurd (Nat.Prime.dvd_of_dvd_pow (by norm_num) hdvd) (by decide)

/-- R106: `m` bytes fit `k` codes exactly when `m` bytes are too few for every value of `k` codes, since no two powers are equal. -/
theorem encSize_le_iff_lt_decSize (m : Nat) {k : Nat} (hk : k ≠ 0) : encSize m ≤ k ↔ m < decSize k := by
  rw [encSize_le_iff, lt_decSize_iff, (pow_256_ne_pow_58 m hk).le_iff_lt]

/-- Settles O48: the bound keeps ENCODE's output within the input window (`referenceOutput_length_le_encSize`), so the round trip is
`convert_inverse_convert`; 750 is DEC_SIZE(1024) (`encSize_le_iff_lt_decSize`). -/
theorem roundTripBytesFirst : Obligations.RoundTripBytesFirst := by
  refine ⟨fun s t s' b hc hb hsize h hcfg hlen hin => ?_, fun m => ?_⟩
  · obtain ⟨hblen, -⟩ := Memory.readFrom_eq_some.1 hb
    exact convert_inverse_convert (d := .toBase58) hc (hblen ▸ (le_encSize _).trans hsize) hb
      (fun x _ => Option.some_ne_none x.toNat) ((referenceOutput_length_le_encSize _ b).trans hsize) h hcfg hlen hin
  · rw [encSize_le_iff_lt_decSize m (by decide), decSize_default, Nat.lt_succ_iff]

/-- Settles O49: DECODE's output is no longer than its input (`referenceOutput_toBytes_length_le`), so the round trip is
`convert_inverse_convert`. -/
theorem roundTripTextFirst : Obligations.RoundTripTextFirst := by
  intro s t s' c hc hn hu hcodes h hcfg hlen hin
  obtain ⟨hclen, -⟩ := Memory.readFrom_eq_some.1 hu
  exact convert_inverse_convert (d := .toBytes) hc hn hu hcodes
    ((referenceOutput_toBytes_length_le c).trans (hclen ▸ hn)) h hcfg hlen hin

end Sys2Proof.Machine
end

section
/-! PROOF. Control (43_control.md): the sequencer's turn, the placed and the illegal command word, NOP and CLRHZD, and what every
command that goes on leaves and does not touch. -/

namespace Sys2Proof

/-! ### Illegal words (R180) -/

theorem opcode_lt_four (i : Instr) : (opcode i).toNat < 4 := by cases i <;> decide

/-- R82: the four opcodes below 4 are all in use. -/
theorem exists_opcode_eq {op : BitVec 4} (h : op.toNat < 4) : ∃ i, opcode i = op := by
  have hcases : ∀ op : BitVec 4, op.toNat < 4 → op = 0x0#4 ∨ op = 0x1#4 ∨ op = 0x2#4 ∨ op = 0x3#4 := by decide
  rcases hcases op h with rfl | rfl | rfl | rfl
  · exact ⟨.nop, rfl⟩
  · exact ⟨.encode, rfl⟩
  · exact ⟨.decode, rfl⟩
  · exact ⟨.clrhzd, rfl⟩

theorem decodeCmd_eq_error_iff (w : Word) :
    (∃ r, decodeCmd w = .error r) ↔ rsvField w ≠ 0#28 ∨ 4 ≤ (opField w).toNat := by
  constructor
  · rintro ⟨r, hr⟩
    by_contra! hlegal
    obtain ⟨hrsv, hop⟩ := hlegal
    obtain ⟨i, hi⟩ := exists_opcode_eq hop
    have hw : w = encode i := by rw [← rsvField_append_opField w, hrsv, ← hi, encode]
    rw [hw, decodeCmd_encode] at hr
    cases hr
  · intro hillegal
    cases hd : decodeCmd w with
    | error r => exact ⟨r, rfl⟩
    | ok i =>
      obtain ⟨hrsv, hop⟩ := fields_of_decodeCmd_ok hd
      have := opcode_lt_four i
      rw [hop] at hillegal
      exact absurd hillegal (by simp [hrsv, this])

end Sys2Proof

namespace Sys2Proof.Machine

/-! ### The sequencer's turn (R172, R175) -/

theorem sequencerTurn_of_busy {s : State} (hb : s.status.busy = true) : sequencerTurn s = complete s := if_pos hb

theorem sequencerTurn_of_idle {s : State} (hb : s.status.busy = false) : sequencerTurn s = .next s := by
  simp [sequencerTurn, hb]

/-- The sequencer's turn, chosen ahead or, when none is, that of a busy block. -/
theorem takeTurn_of_mover_sequencer {s : State} (h : s.mover = .sequencer) :
    takeTurn s = sequencerTurn (s.setTurns s.env.turns.tail) := by
  cases ht : s.env.turns with
  | cons turn ts =>
    obtain rfl : turn = .sequencer := by simpa [State.mover, ht] using h
    simp [takeTurn, ht]
  | nil =>
    have hb : s.status.busy = true := by simpa [State.mover, ht] using h
    rw [← ht, State.setTurns_tail_of_nil ht, sequencerTurn_of_busy hb]
    simp [takeTurn, ht, hb]

theorem step_of_completes {s : State} (hf : s.modelFault = none) (hc : s.cfg.wellFormed = true) (h : s.completes) :
    step s = complete (s.setTurns s.env.turns.tail) := by
  obtain ⟨hm, hb⟩ := h
  rw [step_eq_takeTurn hf hc, takeTurn_of_mover_sequencer hm]
  exact sequencerTurn_of_busy hb

theorem complete_of_legal {s : State} {i : Instr} (h : decodeCmd s.cw = .ok i) : complete s = exec i s := by
  rw [complete, h]

theorem complete_of_illegal {s : State} {r : DecodeReject} (h : decodeCmd s.cw = .error r) :
    complete s = .next (s.completeError .illegalCmd s.cw) := by
  rw [complete, h, completeIllegal]

/-- The step after the placing of a word completes it in the state its acceptance leaves. -/
theorem step_placeCommand {s : State} (hf : s.modelFault = none) (hc : s.cfg.wellFormed = true) (v : Word) :
    step (s.placeCommand v) = complete (s.accept v) :=
  step_of_completes (s := s.placeCommand v) hf hc ⟨rfl, rfl⟩

/-- Settles O7: a word that is none of the four has a reserved bit set or a reserved OP (`decodeCmd_eq_error_iff`), and its
completion is `State.completeError` on the accepted state. -/
theorem illegalWordCompletesWithIllegalCmd : Obligations.IllegalWordCompletesWithIllegalCmd := by
  refine ⟨decodeCmd_eq_error_iff, fun s v r hf hc hr => ?_⟩
  rw [step_placeCommand hf hc, complete_of_illegal (s := s.accept v) hr]
  rfl

/-- Settles O3: by `step_of_completes` and the two cases of `complete`. -/
theorem stepRunsLatchedCommand : Obligations.StepRunsLatchedCommand := by
  intro s hf hc hcomp
  rw [step_of_completes hf hc hcomp]
  exact ⟨fun i hi => complete_of_legal hi, fun r hr => complete_of_illegal hr⟩

/-- Settles O4: the sequencer's turn of an idle block passes. -/
theorem sequencerWaitsForBusy : Obligations.SequencerWaitsForBusy := by
  intro s hf hc hm hb
  rw [step_eq_takeTurn hf hc, takeTurn_of_mover_sequencer hm]
  exact sequencerTurn_of_idle hb

/-- Settles O6: `step_placeCommand` for a word that decodes. -/
theorem placedCommandRunsNext : Obligations.PlacedCommandRunsNext := by
  intro s w i hf hc hi
  rw [State.withFetchWord, step_placeCommand hf hc]
  exact complete_of_legal hi

/-! ### Acceptance (R170) -/

theorem memWrite_cmd (v : Word) (s : State) :
    memWrite 0x00010#18 4 v s = (.okay, if s.status.busy then s.discardWrite else s.accept v) := rfl

theorem readResult_of_busy {s : State} (hb : s.status.busy = true) (v : Word) : readResult v s = .unspecified 4 :=
  if_pos hb

/-- Settles O10: the write is the acceptance of its word, which leaves the block busy, so that no result reads as a value. -/
theorem commandWriteIsAccepted : Obligations.CommandWriteIsAccepted := by
  intro s v hb
  have hwrite : memWrite 0x00010#18 4 v s = (.okay, s.accept v) := by simp [memWrite_cmd, hb]
  rw [hwrite]
  refine ⟨rfl, fun a ha => ?_⟩
  have hbusy : (s.accept v).status.busy = true := rfl
  rcases ha with rfl | rfl | rfl | rfl
  · exact (memRead_register .outLen _).trans (readResult_of_busy hbusy _)
  · exact (memRead_register .zcount _).trans (readResult_of_busy hbusy _)
  · exact (memRead_register .diglen _).trans (readResult_of_busy hbusy _)
  · exact (memRead_register .errInfo _).trans (readResult_of_busy hbusy _)

/-! ### NOP and CLRHZD (R178, R179) -/

/-- STATUS once an accepted command has completed without error and left HZD. -/
theorem Status.completedOk_accepted_encode (st : Status) (i : Instr) : (st.accepted (encode i)).completedOk =
    { busy := false, done := true, err := false, hzd := st.hzd, errcode := 0#4, lastop := opcode i } := by
  have hlastop : (encode i).extractLsb' 0 4 = opcode i := opField_append 0#28 (opcode i)
  rw [Status.completedOk, Status.accepted, hlastop]

theorem Status.word_nop (st : Status) :
    (st.accepted (encode .nop)).completedOk.word = if st.hzd then 0x0000000A#32 else 0x00000002#32 := by
  rw [Status.completedOk_accepted_encode]
  cases st.hzd <;> decide

theorem Status.word_clrhzd (st : Status) :
    (st.accepted (encode .clrhzd)).hazardCleared.completedOk.word = 0x00003002#32 := by
  have hcomm : (st.accepted (encode .clrhzd)).hazardCleared = st.hazardCleared.accepted (encode .clrhzd) := rfl
  rw [hcomm, Status.completedOk_accepted_encode, Status.hazardCleared_hzd]
  decide

/-- Settles O35: NOP's completion is `State.completeOk`, whose STATUS after acceptance is `Status.word_nop`. -/
theorem nopCompletes : Obligations.NopCompletes :=
  ⟨rfl, exec_nop, fun s => ⟨_, exec_nop _, rfl, s.status.word_nop⟩⟩

/-- Settles O36: CLRHZD's completion is `State.completeOk` with HZD cleared, whose STATUS after acceptance is
`Status.word_clrhzd`. -/
theorem clrhzdCompletes : Obligations.ClrhzdCompletes :=
  ⟨rfl, exec_clrhzd, fun s => ⟨_, exec_clrhzd _, rfl, s.status.word_clrhzd⟩⟩

/-! ### What a command can do when it goes on (R172 to R179) -/

/-- A conversion that goes on takes an error, or leaves the result of written input within IN_CAP. -/
theorem convert_error_or_result {d : Direction} {s t : State} (h : convert d s = .next t) :
    (∃ e info dp, t = (s.setDatapath dp).completeError e info) ∨
    (s.inLen.toNat ≤ s.cfg.inCap ∧ ∃ u dp, s.input = some u ∧ t = s.referenceResult d u dp) := by
  cases herr : t.status.err with
  | false => exact .inr (convert_ok h herr)
  | true =>
    rcases convert_next h with ⟨-, rfl⟩ | ⟨-, u, -, rfl⟩
    · exact .inl ⟨.lenRange, s.inLen, s.dp, rfl⟩
    · rcases convertInput_cases d u s with ⟨e, info, dp, -, he⟩ | ⟨c, dp, -, he⟩
      · exact .inl ⟨e, info, dp, he⟩
      · rw [he] at herr
        cases herr

/-- A command that goes on is NOP, CLRHZD, one that takes an error, or a conversion of written input within IN_CAP. -/
theorem exec_next {i : Instr} {s t : State} (h : exec i s = .next t) :
    (i = .nop ∧ t = s.completeOk) ∨
    (i = .clrhzd ∧ t = { s with status := s.status.hazardCleared }.completeOk) ∨
    (∃ e info dp, t = (s.setDatapath dp).completeError e info) ∨
    ((i = .encode ∨ i = .decode) ∧ s.inLen.toNat ≤ s.cfg.inCap ∧
      ∃ d u dp, s.input = some u ∧ t = s.referenceResult d u dp) := by
  cases i with
  | nop => cases h; exact .inl ⟨rfl, rfl⟩
  | encode =>
    exact .inr (.inr ((convert_error_or_result h).imp_right fun ⟨hn, hu⟩ => ⟨.inl rfl, hn, _, hu⟩))
  | decode =>
    exact .inr (.inr ((convert_error_or_result h).imp_right fun ⟨hn, hu⟩ => ⟨.inr rfl, hn, _, hu⟩))
  | clrhzd => cases h; exact .inr (.inl ⟨rfl, rfl⟩)

/-- What no command touches: the configuration, the inputs, the latched word, LASTOP, the fault record and the host's side. -/
theorem exec_frame {i : Instr} {s t : State} (h : exec i s = .next t) :
    t = { s with
      phase := .idle, outLen := t.outLen, zcount := t.zcount, diglen := t.diglen, errInfo := t.errInfo, dp := t.dp,
      outWin := t.outWin,
      status := { s.status with
        busy := false, done := true, err := t.status.err, hzd := t.status.hzd, errcode := t.status.errcode } } := by
  rcases exec_next h with ⟨-, rfl⟩ | ⟨-, rfl⟩ | ⟨e, info, dp, rfl⟩ | ⟨-, -, d, u, dp, -, rfl⟩ <;> rfl

/-- R32, R179: only CLRHZD touches HZD. -/
theorem exec_hzd {i : Instr} {s t : State} (h : exec i s = .next t) (hi : i ≠ .clrhzd) : t.status.hzd = s.status.hzd := by
  rcases exec_next h with ⟨-, rfl⟩ | ⟨hclr, -⟩ | ⟨e, info, dp, rfl⟩ | ⟨-, -, d, u, dp, -, rfl⟩
  · rfl
  · exact absurd hclr hi
  · rfl
  · rfl

/-- Only a conversion without error writes the output window. -/
theorem exec_outWin {i : Instr} {s t : State} (h : exec i s = .next t)
    (hi : i = .nop ∨ i = .clrhzd ∨ t.status.err = true) : t.outWin = s.outWin := by
  rcases exec_next h with ⟨-, rfl⟩ | ⟨-, rfl⟩ | ⟨e, info, dp, rfl⟩ | ⟨hconv, -, d, u, dp, -, rfl⟩
  · rfl
  · rfl
  · rfl
  · rcases hi with rfl | rfl | herr
    · simp at hconv
    · simp at hconv
    · cases herr

/-- 10_state.md R44: EMIT writes the cells below OUT_LEN only; in a legal configuration OUT_LEN holds the output's length. -/
theorem exec_outWin_get {i : Instr} {s t : State} (hc : s.cfg.wellFormed = true) (h : exec i s = .next t) {k : Nat}
    (hk : t.outLen.toNat ≤ k) : t.outWin.get k = s.outWin.get k := by
  rcases exec_next h with ⟨-, rfl⟩ | ⟨-, rfl⟩ | ⟨e, info, dp, rfl⟩ | ⟨-, hn, d, u, dp, hu, rfl⟩
  · rfl
  · rfl
  · rfl
  · rw [State.referenceResult_outLen (referenceOutput_length_lt hc hn hu d)] at hk
    rw [State.get_referenceResult, if_neg (not_lt.2 hk)]

/-- Settles O37: `exec_frame` gives all but HZD and the output window, which have a lemma each. -/
theorem commandFrame : Obligations.CommandFrame := by
  intro s t i hc h
  have hframe := exec_frame h
  exact ⟨(congrArg State.cfg hframe :), (congrArg State.inLen hframe :), fun k => congrArg (·.inWin.get k) hframe,
    (congrArg State.cw hframe :), (congrArg State.modelFault hframe :), (congrArg State.env hframe :),
    congrArg State.phase hframe, congrArg (·.status.busy) hframe, congrArg (·.status.done) hframe, congrArg (·.status.lastop) hframe,
    exec_hzd h, fun k hk => exec_outWin_get hc h hk, fun hi k => congrArg (Memory.get · k) (exec_outWin h hi)⟩

/-- Settles O38: of the ends of a command (`exec_next`) only `State.completeError` leaves ERR = 1. -/
theorem errorsArePrecise : Obligations.ErrorsArePrecise := by
  intro s t i h herr
  rcases exec_next h with ⟨-, rfl⟩ | ⟨-, rfl⟩ | ⟨e, info, dp, rfl⟩ | ⟨-, -, d, u, dp, -, rfl⟩
  · cases herr
  · cases herr
  · rfl
  · cases herr

/-! ### Completion (R174, R175) -/

theorem convert_of_written_cells {s : State}
    (h : s.inLen.toNat ≤ s.cfg.inCap → ∀ k, k < s.inLen.toNat → (s.inWin.get k).isSome) (d : Direction) :
    ∃ t, convert d s = .next t := by
  by_cases hn : s.inLen.toNat ≤ s.cfg.inCap
  · cases hu : s.inWin.readFrom 0 s.inLen.toNat with
    | some u => exact ⟨_, convert_of_written hn hu⟩
    | none =>
      obtain ⟨k, hk, hnone⟩ := Memory.readFrom_eq_none.1 hu
      rw [Nat.zero_add] at hnone
      exact absurd (h hn k hk) (by simp [hnone])
  · exact ⟨_, convert_of_out_of_range (not_le.1 hn)⟩

/-- Settles O39: nothing but an unwritten input cell stops a command, and one that goes on has completed (`exec_frame`). -/
theorem writtenInputAlwaysCompletes : Obligations.WrittenInputAlwaysCompletes := by
  intro s i hwritten
  have hgoes : ∃ t, exec i s = .next t := by
    cases i with
    | nop => exact ⟨_, exec_nop s⟩
    | encode => exact convert_of_written_cells hwritten .toBase58
    | decode => exact convert_of_written_cells hwritten .toBytes
    | clrhzd => exact ⟨_, exec_clrhzd s⟩
  obtain ⟨t, h⟩ := hgoes
  have hframe := exec_frame h
  exact ⟨t, h, congrArg (·.status.busy) hframe, congrArg (·.status.done) hframe, congrArg State.phase hframe⟩

end Sys2Proof.Machine
end

section
/-! PROOF. Exceptions (60_exceptions.md): which transactions get ERROR, what a write discarded before a completion leaves, and the two
errors of the conversions. -/

namespace Sys2Proof.Machine

/-! ### Bus errors (R197, 20_memory.md R63) -/

theorem readResult_ne_error (v : Word) (s : State) (d : Word) : readResult v s ≠ .value .error d := by
  rw [readResult]
  split_ifs <;> exact nofun

theorem readReg_ne_error (r : Reg) (s : State) (d : Word) : readReg r s ≠ .value .error d := by
  cases r with
  | outLen | zcount | diglen | errInfo => exact readResult_ne_error _ s d
  | _ => exact nofun

theorem readPage_ne_error (off : Nat) (s : State) (d : Word) : readPage off s ≠ .value .error d := by
  rw [readPage]
  cases Reg.atOffset off with
  | none => exact nofun
  | some r => exact readReg_ne_error r s d

theorem readWindow_ne_error (m : Memory) (i n : Nat) (d : Word) : readWindow m i n ≠ .value .error d := by
  rw [readWindow]
  cases m.readFrom i n <;> exact nofun

theorem busError_eq_error_iff (d : Word) : busError = .value .error d ↔ d = 0#32 := by
  rw [busError, ReadAnswer.value.injEq, eq_self_iff_true, true_and, eq_comm]

/-- A read guarded by `c`, whose answer is no ERROR, gets ERROR exactly when `c` fails. -/
theorem ite_busError_eq_error_iff {c : Prop} [Decidable c] {r : ReadAnswer} {d : Word} (hr : r ≠ .value .error d) :
    (if c then r else busError) = .value .error d ↔ ¬ c ∧ d = 0#32 := by
  by_cases hc : c
  · simp [hc, hr]
  · simp [hc, busError_eq_error_iff]

/-- A write guarded by `c` gets ERROR exactly when `c` fails. -/
theorem ite_okay_fst_eq_error_iff {c : Prop} [Decidable c] {s t : State} :
    (if c then (Resp.okay, t) else (.error, s)).1 = .error ↔ ¬ c := by
  by_cases hc : c <;> simp [hc]

/-- The reads R197 lists: size 2, a register access not 32 bits wide or misaligned, an unmapped address, and a window access misaligned
or beyond the capacity. -/
def ReadRejected (cfg : Config) (a : Addr) (n : Nat) : Prop :=
  n = 2 ∨ (a.toNat < 0x01000 ∧ (n ≠ 4 ∨ a.toNat % 4 ≠ 0)) ∨
  (0x01000 ≤ a.toNat ∧ a.toNat < 0x10000) ∨ 0x30000 ≤ a.toNat ∨
  (0x10000 ≤ a.toNat ∧ a.toNat < 0x20000 ∧ ((n = 4 ∧ a.toNat % 4 ≠ 0) ∨ cfg.inCap < a.toNat - 0x10000 + n)) ∨
  (0x20000 ≤ a.toNat ∧ a.toNat < 0x30000 ∧ ((n = 4 ∧ a.toNat % 4 ≠ 0) ∨ cfg.outCap < a.toNat - 0x20000 + n))

/-- The writes R197 lists: as for reads, and every write to the output window. -/
def WriteRejected (cfg : Config) (a : Addr) (n : Nat) : Prop :=
  n = 2 ∨ (a.toNat < 0x01000 ∧ (n ≠ 4 ∨ a.toNat % 4 ≠ 0)) ∨
  (0x01000 ≤ a.toNat ∧ a.toNat < 0x10000) ∨ 0x20000 ≤ a.toNat ∨
  (0x10000 ≤ a.toNat ∧ a.toNat < 0x20000 ∧ ((n = 4 ∧ a.toNat % 4 ≠ 0) ∨ cfg.inCap < a.toNat - 0x10000 + n))

/-- The guards of `memRead`, region by region, shut out the listed reads and no other. -/
theorem memRead_eq_error_iff (a : Addr) (n : Nat) (s : State) (d : Word) :
    memRead a n s = .value .error d ↔ ReadRejected s.cfg a n ∧ d = 0#32 := by
  rw [memRead, ReadRejected]
  by_cases h2 : n = 2
  · rw [if_pos h2, busError_eq_error_iff]
    simp only [h2, true_or, true_and]
  rw [if_neg h2]
  rcases region_cases a with ⟨ha, hreg⟩ | ⟨ha, ha', hreg⟩ | ⟨ha, ha', hreg⟩ | ⟨ha, hreg⟩ <;> rw [hreg] <;> dsimp only
  · rw [ite_busError_eq_error_iff (readPage_ne_error _ s d), aligned_iff]
    exact and_congr_left fun _ => by omega
  · rw [ite_busError_eq_error_iff (readWindow_ne_error _ _ n d), aligned_iff]
    exact and_congr_left fun _ => by omega
  · have hanswer : (if s.status.busy then .unspecified n else readWindow s.outWin (a.toNat - 0x20000) n) ≠
        .value .error d := by
      split_ifs
      · exact nofun
      · exact readWindow_ne_error _ _ n d
    rw [ite_busError_eq_error_iff hanswer, aligned_iff]
    exact and_congr_left fun _ => by omega
  · rw [busError_eq_error_iff]
    exact (and_iff_right (by omega)).symm

/-- The guards of `memWrite`, region by region, shut out the listed writes and no other. -/
theorem memWrite_error_iff (a : Addr) (n : Nat) (v : Word) (s : State) :
    (memWrite a n v s).1 = .error ↔ WriteRejected s.cfg a n := by
  rw [memWrite, WriteRejected]
  by_cases h2 : n = 2
  · simp only [h2, if_true, true_or]
  rw [if_neg h2]
  rcases region_cases a with ⟨ha, hreg⟩ | ⟨ha, ha', hreg⟩ | ⟨ha, ha', hreg⟩ | ⟨ha, hreg⟩ <;> rw [hreg] <;> dsimp only
  · rw [ite_okay_fst_eq_error_iff, aligned_iff]
    omega
  · rw [ite_okay_fst_eq_error_iff, aligned_iff]
    omega
  · exact iff_of_true rfl (by omega)
  · exact iff_of_true rfl (by omega)

/-- Settles O13: `memRead_eq_error_iff` and `memWrite_error_iff` give the lists, and an ERROR's effect is the port's answer alone
(`memWrite_error`). -/
theorem busErrorsExactly : Obligations.BusErrorsExactly := by
  intro s a n v _
  refine ⟨?_, memWrite_error_iff a n v s, fun d hd => ?_, fun herr => ?_⟩
  · simp only [memRead_eq_error_iff, exists_and_left, exists_eq, and_true]
    rfl
  · obtain ⟨-, rfl⟩ := (memRead_eq_error_iff a n s d).1 hd
    exact ⟨rfl, hostRead_of_value hd⟩
  · rw [hostWrite, memWrite_error herr, herr]

/-! ### A write discarded before the completion (R198, 70_reset_and_hazards.md R231) -/

/-- A conversion does not look at HZD. -/
theorem convertInput_discardWrite (d : Direction) (u : List Byte) (s : State) :
    s.discardWrite.convertInput d u = (s.convertInput d u).discardWrite := by
  rw [State.convertInput, State.convertInput]
  rcases foldInput d u with ⟨_ | j | j, c⟩ <;> rfl

theorem convert_discardWrite {d : Direction} {s t : State} (h : convert d s = .next t) :
    convert d s.discardWrite = .next t.discardWrite := by
  rcases convert_next h with ⟨hn, rfl⟩ | ⟨hn, u, hu, rfl⟩
  · exact convert_of_out_of_range (s := s.discardWrite) hn
  · rw [convert_of_written (s := s.discardWrite) hn hu, convertInput_discardWrite]

/-- Settles O26: the discarded write commutes with every completion but CLRHZD's, which clears what it set. -/
theorem discardedWriteLeavesResult : Obligations.DiscardedWriteLeavesResult := by
  intro s t i h
  cases i with
  | nop => cases h; rfl
  | encode => exact convert_discardWrite h
  | decode => exact convert_discardWrite h
  | clrhzd => cases h; rfl

/-! ### LEN_RANGE (R193) -/

/-- Settles O42: the length is checked before any cell is read (`convert_of_out_of_range`). -/
theorem lengthOutOfRangeCompletesWithError : Obligations.LengthOutOfRangeCompletesWithError := by
  rintro s i (rfl | rfl) hn
  · exact convert_of_out_of_range hn
  · exact convert_of_out_of_range hn

/-! ### INVALID_CHARACTER (R192) -/

/-- Folds of digits up to a symbol that is none end at that symbol, unless one leaves a carry. -/
theorem foldSymbols_of_first_invalid {d : Direction} {pre : List Byte} {b : Byte} (hpre : ∀ x ∈ pre, d.digit x ≠ none)
    (hb : d.digit b = none) (rest : List Byte) (j : Nat) (c : Chain) :
    (foldSymbols d j (pre ++ b :: rest) c).1 = .invalidCharacter (j + pre.length) ∨
    ∃ i, (foldSymbols d j (pre ++ b :: rest) c).1 = .carryOverflow i := by
  induction pre generalizing j c with
  | nil => exact .inl (by simp [foldSymbols, hb])
  | cons x pre ih =>
    obtain ⟨v, hv⟩ := Option.ne_none_iff_exists'.1 (hpre x List.mem_cons_self)
    simp only [List.cons_append, foldSymbols, hv, List.length_cons]
    split_ifs
    · exact .inr ⟨j, rfl⟩
    · rw [Nat.add_comm pre.length, ← Nat.add_assoc]
      exact ih (fun y hy => hpre y (List.mem_cons_of_mem x hy)) _ _

theorem leadZ_le_of_get_ne {zsym b : Byte} {u : List Byte} {j : Nat} (hj : u[j]? = some b) (hb : b ≠ zsym) :
    leadZ zsym u ≤ j := by
  rw [leadZ_eq_findIdx]
  by_contra! hlt
  have hz := (findIdx_ne_spec zsym u).2.1 j hlt
  exact hb (Option.some.inj (hj.symm.trans hz))

/-- R192: the folds of a command end at the smallest index whose symbol is no digit; that symbol is no zero symbol, so the bypass
stops before it, and no fold leaves a carry (`foldInput_folded`). -/
theorem foldInput_of_first_invalid {d : Direction} {u : List Byte} {j : Nat} {b : Byte} (hj : u[j]? = some b)
    (hb : d.digit b = none) (hbefore : ∀ k x, k < j → u[k]? = some x → d.digit x ≠ none) :
    (foldInput d u).1 = .invalidCharacter j := by
  have hz : leadZ d.zeroIn u ≤ j := leadZ_le_of_get_ne hj fun h => d.digit_zeroIn_ne_none (h ▸ hb)
  obtain ⟨hlt, rfl⟩ := List.getElem?_eq_some_iff.1 hj
  have hpre : ∀ x ∈ (u.take j).drop (leadZ d.zeroIn u), d.digit x ≠ none := by
    intro x hx
    obtain ⟨k, hk, rfl⟩ := List.mem_take_iff_getElem.1 (List.mem_of_mem_drop hx)
    exact hbefore k _ (by omega) (List.getElem?_eq_getElem _)
  have hsplit : u.drop (leadZ d.zeroIn u) = (u.take j).drop (leadZ d.zeroIn u) ++ u[j] :: u.drop (j + 1) := by
    rw [← List.drop_eq_getElem_cons hlt, ← List.drop_append_of_le_length (by rw [List.length_take]; omega), List.take_append_drop]
  have hlen : leadZ d.zeroIn u + ((u.take j).drop (leadZ d.zeroIn u)).length = j := by
    rw [List.length_drop, List.length_take]
    omega
  have hend := foldSymbols_of_first_invalid hpre hb (u.drop (j + 1)) (leadZ d.zeroIn u)
    (Chain.cleared (d.workSize (u.length - leadZ d.zeroIn u)))
  rw [← hsplit, hlen, ← foldInput] at hend
  rcases hend with hend | ⟨i, hcarry⟩
  · exact hend
  · rcases foldInput_folded d u with ⟨hdone, -⟩ | ⟨k, ds, hinv, -⟩
    · cases hdone.symm.trans hcarry
    · cases hinv.symm.trans hcarry

theorem convertInput_of_invalidCharacter {d : Direction} {u : List Byte} {j : Nat}
    (h : (foldInput d u).1 = .invalidCharacter j) (s : State) :
    ∃ dp, s.convertInput d u = (s.setDatapath dp).completeError .invalidCharacter (BitVec.ofNat 32 j) := by
  refine ⟨(foldInput d u).2.latch (leadZ d.zeroIn u) (d.workSize (u.length - leadZ d.zeroIn u)), ?_⟩
  rw [State.convertInput, ← Prod.mk.eta (p := foldInput d u), h]
  rfl

/-- Every byte is a digit of ENCODE's input (41_encode.md R130). -/
theorem encode_errcode_ne_invalidCharacter {s t : State} (h : exec .encode s = .next t) : t.status.errcode ≠ 1#4 := by
  rcases convert_next h with ⟨-, rfl⟩ | ⟨hn, u, hu, rfl⟩
  · exact (by decide : (2#4 : BitVec 4) ≠ 1#4)
  · obtain ⟨dp, he⟩ := convertInput_of_done (foldInput_done_of_digits (d := .toBase58) (u := u) fun _ _ => nofun) s
    rw [he]
    exact (by decide : (0#4 : BitVec 4) ≠ 1#4)

/-- Settles O43: the folds end at the smallest invalid index (`foldInput_of_first_invalid`), and the end is `State.completeError`. -/
theorem decodeReportsFirstInvalidCharacter : Obligations.DecodeReportsFirstInvalidCharacter := by
  refine ⟨fun s u j c hn hu hj hc hbefore => ?_, fun s t => encode_errcode_ne_invalidCharacter⟩
  obtain ⟨dp, he⟩ := convertInput_of_invalidCharacter (foldInput_of_first_invalid (d := .toBytes) hj hc hbefore) s
  exact ⟨_, (convert_of_written hn hu).trans (congrArg _ he), rfl⟩

end Sys2Proof.Machine
end

section
/-! PROOF. Reset and hazards (70_reset_and_hazards.md): the reset event, what writes and reads do while a command runs, and that it
completes. -/

namespace Sys2Proof.Machine

/-- The register at an address has that address. -/
theorem addr_of_atOffset {a : Addr} {r : Reg} (h : Reg.atOffset a.toNat = some r) : a = BitVec.ofNat 18 r.offset := by
  have hoff : r.offset = a.toNat := by simpa [Reg.atOffset] using List.find?_some h
  rw [hoff, BitVec.ofNat_toNat, BitVec.setWidth_eq]

/-! ### Writes while BUSY = 1 (R230) -/

/-- R52, R56: every register but CMD and IN_LEN is read-only, and a reserved offset ignores writes. -/
theorem writePage_of_ne {a : Addr} (hcmd : a ≠ 0x00010#18) (hinLen : a ≠ 0x00018#18) (v : Word) (s : State) :
    writePage a.toNat v s = s := by
  rw [writePage]
  cases hr : Reg.atOffset a.toNat with
  | none => rfl
  | some r =>
    cases r with
    | cmd => exact absurd (addr_of_atOffset hr) hcmd
    | inLen => exact absurd (addr_of_atOffset hr) hinLen
    | _ => rfl

theorem memWrite_page_of_ne {a : Addr} (h : a.toNat < 0x01000) (hcmd : a ≠ 0x00010#18) (hinLen : a ≠ 0x00018#18)
    (n : Nat) (v : Word) (s : State) : (memWrite a n v s).2 = s := by
  rw [memWrite, regionOf_page h, writePage_of_ne hcmd hinLen]
  split_ifs <;> rfl

/-- The writes that are performed to CMD, IN_LEN or cells of the input window when BUSY = 0, and discarded when BUSY = 1. -/
def WritesBlock (cfg : Config) (a : Addr) (n : Nat) : Prop :=
  (n = 4 ∧ (a = 0x00010#18 ∨ a = 0x00018#18)) ∨
  (0x10000 ≤ a.toNat ∧ a.toNat < 0x20000 ∧ n ≠ 2 ∧ (n = 4 → a.toNat % 4 = 0) ∧ a.toNat - 0x10000 + n ≤ cfg.inCap)

theorem memWrite_writesBlock_of_busy {s : State} (hb : s.status.busy = true) {a : Addr} {n : Nat} (h : WritesBlock s.cfg a n)
    (v : Word) : memWrite a n v s = (.okay, s.discardWrite) := by
  rcases h with ⟨rfl, rfl | rfl⟩ | ⟨hlow, hhigh, hn, hal, hcap⟩
  · rw [memWrite_cmd, if_pos hb]
  · rw [memWrite_inLen, if_pos hb]
  · rw [memWrite_input hlow hhigh hn hal hcap, writeInput, if_pos hb]

/-- Every other write gets ERROR or addresses a register that ignores it. -/
theorem memWrite_of_not_writesBlock {s : State} {a : Addr} {n : Nat} (h : ¬ WritesBlock s.cfg a n) (v : Word) :
    (memWrite a n v s).2 = s := by
  obtain ⟨hreg, hwindow⟩ := not_or.1 h
  by_cases hrej : WriteRejected s.cfg a n
  · exact memWrite_error ((memWrite_error_iff a n v s).2 hrej)
  · rw [WriteRejected] at hrej
    have hpage : a.toNat < 0x01000 := by omega
    have hn : n = 4 := by omega
    exact memWrite_page_of_ne hpage (fun ha => hreg ⟨hn, .inl ha⟩) (fun ha => hreg ⟨hn, .inr ha⟩) n v s

/-- Settles O12: the writes of `WritesBlock` are discarded, and no other changes anything. -/
theorem busyWritesAreDiscarded : Obligations.BusyWritesAreDiscarded :=
  ⟨fun _ _ _ v hb _ => ⟨fun h => memWrite_writesBlock_of_busy hb h v, fun h => memWrite_of_not_writesBlock h v⟩,
    fun s _ n v h hcmd hinLen => memWrite_page_of_ne h hcmd hinLen n v s⟩

/-! ### Reads while BUSY = 1 (R232) -/

/-- The reads of a result: OUT_LEN, ZCOUNT, DIGLEN, ERR_INFO, or cells of the output window. -/
def ReadsResult (cfg : Config) (a : Addr) (n : Nat) : Prop :=
  (n = 4 ∧ (a = 0x0001C#18 ∨ a = 0x00020#18 ∨ a = 0x00024#18 ∨ a = 0x00028#18)) ∨
  (0x20000 ≤ a.toNat ∧ a.toNat < 0x30000 ∧ n ≠ 2 ∧ (n = 4 → a.toNat % 4 = 0) ∧ a.toNat - 0x20000 + n ≤ cfg.outCap)

theorem memRead_result_of_busy {s : State} (hb : s.status.busy = true) {a : Addr} {n : Nat} (h : ReadsResult s.cfg a n) :
    memRead a n s = .unspecified n := by
  rcases h with ⟨rfl, rfl | rfl | rfl | rfl⟩ | ⟨hlow, hhigh, hn, hal, hcap⟩
  · exact (memRead_register .outLen s).trans (readResult_of_busy hb _)
  · exact (memRead_register .zcount s).trans (readResult_of_busy hb _)
  · exact (memRead_register .diglen s).trans (readResult_of_busy hb _)
  · exact (memRead_register .errInfo s).trans (readResult_of_busy hb _)
  · rw [memRead_output hlow hhigh hn hal hcap, if_pos hb]

theorem hostRead_of_unspecified {a : Addr} {n k : Nat} {s : State} (h : memRead a n s = .unspecified k) :
    hostRead a n s = .next (s.respond (.read .okay (drawnValue k s))).drawn := by
  rw [hostRead, h]

/-- The drawn value is the low `n` bytes of the free word. -/
theorem toNat_drawnValue {n : Nat} (hn : n ≤ 4) (s : State) :
    (drawnValue n s).toNat = (Config.freeWord s.env.draws).toNat % 256 ^ n := by
  have hpow : 256 ^ n = 2 ^ (8 * n) := (pow_mul 2 8 n).symm
  have hle : 2 ^ (8 * n) ≤ 2 ^ 32 := Nat.pow_le_pow_right (by omega) (by omega)
  have hmask : (BitVec.ofNat 32 (2 ^ (8 * n) - 1)).toNat = 2 ^ (8 * n) - 1 := toNat_ofNat_word (by omega)
  rw [drawnValue, BitVec.toNat_and, hpow, hmask, Nat.and_two_pow_sub_one_eq_mod]

/-- The block with BUSY = 0 and all else as it is. -/
def State.idled (s : State) : State := { s with status := { s.status with busy := false } }

/-- Of the registers only STATUS and the results depend on BUSY. -/
theorem readPage_idled {a : Addr} (hstatus : a ≠ 0x00014#18)
    (hres : ¬ (a = 0x0001C#18 ∨ a = 0x00020#18 ∨ a = 0x00024#18 ∨ a = 0x00028#18)) (s : State) :
    readPage a.toNat s.idled = readPage a.toNat s := by
  rw [readPage, readPage]
  cases hr : Reg.atOffset a.toNat with
  | none => rfl
  | some r =>
    have ha := addr_of_atOffset hr
    cases r with
    | status => exact absurd ha hstatus
    | outLen => exact absurd (.inl ha) hres
    | zcount => exact absurd (.inr (.inl ha)) hres
    | diglen => exact absurd (.inr (.inr (.inl ha))) hres
    | errInfo => exact absurd (.inr (.inr (.inr ha))) hres
    | _ => rfl

theorem memRead_page {a : Addr} (h : a.toNat < 0x01000) (hal : a.toNat % 4 = 0) (s : State) :
    memRead a 4 s = readPage a.toNat s := by
  rw [memRead, if_neg (by decide), regionOf_page h]
  exact if_pos ⟨rfl, (aligned_iff a 4).2 fun _ => hal⟩

/-- A read that is of no result and not of STATUS does not see BUSY: it gets ERROR, or reads another register or input cells. -/
theorem memRead_idled {s : State} {a : Addr} {n : Nat} (h : ¬ ReadsResult s.cfg a n) (hstatus : a ≠ 0x00014#18) :
    memRead a n s.idled = memRead a n s := by
  obtain ⟨hreg, hwindow⟩ := not_or.1 h
  by_cases hrej : ReadRejected s.cfg a n
  · rw [(memRead_eq_error_iff a n s 0#32).2 ⟨hrej, rfl⟩]
    exact (memRead_eq_error_iff a n s.idled 0#32).2 ⟨hrej, rfl⟩
  · rw [ReadRejected] at hrej
    by_cases hpage : a.toNat < 0x01000
    · obtain rfl : n = 4 := by omega
      rw [memRead_page hpage (by omega), memRead_page hpage (by omega)]
      exact readPage_idled hstatus (fun ha => hreg ⟨rfl, ha⟩) s
    · obtain ⟨hlow, hhigh⟩ : 0x10000 ≤ a.toNat ∧ a.toNat < 0x20000 := by omega
      have hcap : a.toNat - 0x10000 + n ≤ s.cfg.inCap := by omega
      rw [memRead_input hlow hhigh (by omega) (by omega) hcap]
      exact memRead_input (s := s.idled) hlow hhigh (by omega) (by omega) hcap

theorem legalSize_le {n : Nat} (h : legalSize n = true) : n ≤ 4 := by
  simp only [legalSize, Bool.or_eq_true, beq_iff_eq] at h
  omega

/-- Settles O16: a result reads as the drawn value (`memRead_result_of_busy`), which has the size of the read (`toNat_drawnValue`);
every other read but that of STATUS does not see BUSY (`memRead_idled`). -/
theorem busyReadsAreFreeValues : Obligations.BusyReadsAreFreeValues := by
  intro s a n hb hn
  refine ⟨fun h => ?_, fun h hstatus => (memRead_idled h hstatus).symm, memRead_register .status s⟩
  have hvalue := toNat_drawnValue (legalSize_le hn) s
  refine ⟨drawnValue n s, ?_, hvalue, hostRead_of_unspecified (memRead_result_of_busy hb h)⟩
  rw [hvalue]
  exact Nat.mod_lt _ (by positivity)

/-! ### The reset event (R220) -/

theorem takeTurn_of_mover_reset {s : State} (h : s.mover = .reset) :
    takeTurn s = .next (s.setTurns s.env.turns.tail).resetBlock := by
  cases ht : s.env.turns with
  | cons turn ts =>
    obtain rfl : turn = .reset := by simpa [State.mover, ht] using h
    simp [takeTurn, ht]
  | nil =>
    rw [State.mover, ht] at h
    dsimp only at h
    split_ifs at h

/-- Settles O31: the step is `State.resetBlock` with the turn taken off the schedule. -/
theorem resetEventPutsResetValues : Obligations.ResetEventPutsResetValues := by
  intro s hf hc hm
  exact ⟨_, (step_eq_takeTurn hf hc).trans (takeTurn_of_mover_reset hm), Status.reset_word, rfl, rfl, rfl, rfl, rfl, rfl,
    fun _ => ⟨rfl, rfl⟩, rfl, rfl⟩

/-! ### A running command completes (R240) -/

theorem hostRead_turns {a : Addr} {n : Nat} {s t : State} (h : hostRead a n s = .next t) : t.env.turns = s.env.turns := by
  rcases hostRead_next h with ⟨r, d, -, rfl⟩ | ⟨k, -, rfl⟩ <;> rfl

theorem memWrite_env (a : Addr) (n : Nat) (v : Word) (s : State) : (memWrite a n v s).2.env = s.env := by
  rcases memWrite_cases a n v s with hw | ⟨-, hw⟩ | ⟨-, hw⟩ | ⟨-, hw⟩ | ⟨-, i, -, hw⟩ <;> rw [hw] <;> rfl

theorem hostOp_turns {op : HostOp} {s t : State} (h : hostOp op s = .next t) : t.env.turns = s.env.turns := by
  unfold hostOp at h
  split_ifs at h
  cases op with
  | read a n => exact hostRead_turns h
  | write a n v =>
    cases h
    exact (congrArg Env.turns (memWrite_env a n v s) :)
  | poll =>
    rw [hostPoll] at h
    rw [hostRead_turns h]
    split_ifs <;> rfl

/-- The host does not choose who moves. -/
theorem hostTurn_turns {s t : State} (h : hostTurn s = .next t) : t.env.turns = s.env.turns := by
  cases hp : s.env.program with
  | nil =>
    rw [hostTurn_of_nil hp] at h
    cases h
    rfl
  | cons op rest =>
    rw [hostTurn_of_cons hp] at h
    exact hostOp_turns (s := s.setProgram rest) h

/-- A step takes one turn off the schedule, when one is chosen. -/
theorem step_turns {s t : State} (h : step s = .next t) : t.env.turns = s.env.turns.tail := by
  obtain ⟨-, -, ⟨-, hhost⟩ | ⟨-, hcomplete⟩ | ⟨-, -, rfl⟩ | ⟨-, rfl⟩⟩ := step_next h
  · exact hostTurn_turns hhost
  · rw [complete_frame hcomplete]
    rfl
  · rfl
  · rfl

/-- With no turn chosen ahead the sequencer of a busy block moves, and a completion leaves BUSY = 0. -/
theorem step_busy_of_no_turns {s t : State} (hb : s.status.busy = true) (ht : s.env.turns = []) (h : step s = .next t) :
    t.status.busy = false := by
  have hm : s.mover = .sequencer := by simp [State.mover, ht, hb]
  obtain ⟨hf, hc, -⟩ := step_next h
  rw [step_of_completes hf hc ⟨hm, hb⟩] at h
  rw [complete_frame h]

section
variable {M : Host.Core} {s t : M.State}

theorem run_succ_of_step (h : M.step s = .next t) (k : Nat) : M.run (k + 1) s = M.run k t := by
  rw [Host.Core.run, h]

/-- A run that goes on goes on at its first step. -/
theorem step_of_run_succ {k : Nat} (h : M.run (k + 1) s = .next t) : ∃ u, M.step s = .next u ∧ M.run k u = .next t := by
  cases hs : M.step s with
  | next u => exact ⟨u, rfl, (run_succ_of_step hs k).symm.trans h⟩
  | fault f =>
    rw [Host.Core.run, hs] at h
    cases h
  | refused r =>
    rw [Host.Core.run, hs] at h
    cases h

end

/-- Settles O32: by induction on the turns chosen ahead: each step uses one up (`step_turns`), and when none is left the command
completes (`step_busy_of_no_turns`). -/
theorem runningCommandCompletes : Obligations.RunningCommandCompletes := by
  intro s t hb hrun
  induction hts : s.env.turns generalizing s with
  | nil =>
    obtain ⟨u, hstep, -⟩ := step_of_run_succ hrun
    exact ⟨1, u, by simp, run_succ_of_step hstep 0, step_busy_of_no_turns hb hts hstep⟩
  | cons turn ts ih =>
    obtain ⟨u, hstep, hrest⟩ := step_of_run_succ hrun
    have hu : u.env.turns = ts := by rw [step_turns hstep, hts, List.tail_cons]
    cases hbu : u.status.busy with
    | false => exact ⟨1, u, by simp, run_succ_of_step hstep 0, hbu⟩
    | true =>
      rw [hts, List.length_cons, ← hu] at hrest
      obtain ⟨k, v, hk, hv, hidle⟩ := ih u hbu hrest hu
      exact ⟨k + 1, v, by simpa using hk, (run_succ_of_step hstep k).trans hv, hidle⟩

end Sys2Proof.Machine
end

section
/-! PROOF. The invariant at reset (10_state.md, value of every piece of state after reset). -/

namespace Sys2Proof.Machine

/-- Settles O28: `resetWith_inv`, the base of the invariant whose step is `stepKeepsInvariant`. -/
theorem resetMeetsInvariant : Obligations.ResetMeetsInvariant :=
  resetWith_inv

end Sys2Proof.Machine
end
